-- ==== Sys2Proof/Word.lean ====
section
/-! DEFINITION. The word types of the block (spec/00_scope.md R10, R15). -/

namespace Sys2Proof

/-- A register, an operand or a command word: `XLEN = 64` bits (R10). -/
abbrev Word := BitVec 64

/-- One byte of the host's frame buffer. -/
abbrev Byte := BitVec 8

end Sys2Proof
end

