-- ==== Sys2Proof/Config.lean ====
section
/-! DEFINITION. What an instance of the block fixes, and the values the spec leaves open
(spec/00_scope.md R7 to R13, spec/92_eei_decisions.md D15, D21, D31). -/

namespace Sys2Proof

/-- The host parameters of R13 and D31, none of which the block reads. `seqLen` is the size of the
sequence number field, which no file of the spec gives (91_not_in_source.md N8); see log 12. -/
structure HostConfig where
  /-- `CAP`, the receive buffer capacity in bytes. -/
  cap : Nat
  /-- `REF_ID`, the 2-character reference-node identifier. -/
  refId : Byte × Byte
  /-- `ID_OFF`, where a frame holds its source identifier. -/
  idOff : Nat
  /-- `SEQ_OFF`, where a frame holds its sequence number. -/
  seqOff : Nat
  /-- How many bytes the sequence number takes. -/
  seqLen : Nat
  /-- `TXTS_OFF`, where a frame holds its transmit timestamp field. -/
  txtsOff : Nat
  /-- `RX_MODE`, the argument of `start_receive(mode)`. -/
  rxMode : Nat
  deriving DecidableEq, Repr, Inhabited

namespace Config

/-- The value the rollover period takes in this hardware, in nanoseconds (R9, D15). Log 2. -/
def P : Int := 17207401026

/-- The constraint on the parameter `P`, the period of an instance of the block (R9, D15):
`17207401026 <= P < 2^62`. -/
abbrev Admitted (p : Int) : Prop := 17207401026 ≤ p ∧ p < 2 ^ 62

/-- `MASK40 = 2^40 - 1` (R7). -/
def MASK40 : Nat := 0xFFFFFFFFFF

/-- Nanoseconds per tick are `NS_NUM / NS_DEN` (R8). -/
def NS_NUM : Nat := 625

/-- Nanoseconds per tick are `NS_NUM / NS_DEN` (R8). -/
def NS_DEN : Nat := 39936

/-- What `TS`, `TM`, `RNUM` and `RDEN` hold right after reset, where the spec gives no value and
forbids 0 (70_reset_and_hazards.md R232). No read and no command delivers it.
DESIGN CHOICE, unsafe: log 3. -/
def unspecifiedAtReset : Word := 0xFFFFFFFFFFFFFFFF#64

/-- FREE VALUE: what the k-th host read of an unspecified register returns (R34 to R37, R232).
DESIGN CHOICE, safe: log 4. -/
opaque freeRead : Nat → Word

/-- FREE VALUE: what the byte at an address of the host's frame buffer is while nothing has written
it (no file of the spec gives the buffer any contents). DESIGN CHOICE, safe: log 19. -/
opaque unwrittenByte : Nat → Byte

/-- `BASE`, where the platform puts the block's register window (20_memory.md R75). Log 12. -/
opaque BASE : Nat

/-- The host parameters of this instance (R13, D31). Log 12. -/
opaque host : HostConfig

end Config

end Sys2Proof
end

