-- ==== Sys2Proof/Syntax.lean ====
section
/-! DEFINITION. The commands of the block (spec/30_encoding.md R92), its register names
(spec/10_state.md R20), the transactions of its port (spec/20_memory.md R61, R62) and the script
statements (spec/30_encoding.md R96, R97). -/

namespace Sys2Proof

/-- The ten commands of R92. None has an operand field (R93, R95). -/
inductive Instr where
  | rxts
  | fldts
  | ts2ns
  | diff
  | addw
  | tcorr
  | supd
  | proj
  | refev
  | peerev
  deriving DecidableEq, Repr

/-- The twelve register names of R20. -/
inductive Reg where
  | a
  | b
  | res
  | cmd
  | status
  | tof
  | p
  | n
  | ts
  | tm
  | rnum
  | rden
  deriving DecidableEq, Repr

/-- One host transaction on the register port, as the port's request signals carry it (R61, R62,
70_reset_and_hazards.md R246): an 8-bit byte offset, a size in bytes, and the data of a write. -/
inductive Txn where
  | read (addr : BitVec 8) (size : BitVec 4)
  | write (addr : BitVec 8) (size : BitVec 4) (data : Word)
  deriving DecidableEq, Repr

/-- One statement of a script (R96) or pseudo-statement (R97). A value is an integer as written;
its 64-bit word is taken where the statement is expanded. -/
inductive Stmt where
  | wr (r : Reg) (v : Int)
  | rd (r : Reg)
  | cmd (i : Instr)
  | reset
  | op1 (i : Instr) (a : Int)
  | op2 (i : Instr) (a b : Int)
  | settof (v : Int)
  | ref (rx field : Int)
  | peer (rx : Int)
  deriving DecidableEq, Repr

end Sys2Proof
end

