-- ==== Sys2Proof/WellFormed.lean ====
section
/-! DEFINITION. Which commands, transactions and script statements are well-formed
(spec/20_memory.md R63, R69; spec/30_encoding.md R93 to R97). -/

namespace Sys2Proof

/-- A command has no operand field, so every command is well-formed (R93, R95). -/
def Instr.wf : Instr → Bool
  | .rxts | .fldts | .ts2ns | .diff | .addw | .tcorr | .supd | .proj | .refev | .peerev => true

/-- R69: 8 bytes, at a multiple of 8, inside the mapped part `0x00` to `0x5F` of the window. -/
def Txn.wfAt (addr : BitVec 8) (size : BitVec 4) : Bool :=
  size == 8#4 && addr.toNat % 8 == 0 && addr.toNat < 0x60

/-- The alignment, size and range that R63 asks of a transaction. -/
def Txn.wf : Txn → Bool
  | .read addr size => Txn.wfAt addr size
  | .write addr size _ => Txn.wfAt addr size

/-- The integers a script may write as a 64-bit word (R96): an unsigned word, or `-k` for the
two's-complement word `2^64 - k`. DESIGN CHOICE, safe: log 18. -/
def Stmt.valueOk (v : Int) : Bool := decide (-2 ^ 63 ≤ v) && decide (v < 2 ^ 64)

/-- The commands `op1` is for (R97). -/
def Instr.takesOne : Instr → Bool
  | .rxts | .fldts | .ts2ns | .tcorr | .proj | .peerev => true
  | .diff | .addw | .supd | .refev => false

/-- The commands `op2` is for (R97). -/
def Instr.takesTwo : Instr → Bool
  | .diff | .addw | .supd | .refev => true
  | .rxts | .fldts | .ts2ns | .tcorr | .proj | .peerev => false

/-- Values in range, and `op1`, `op2` on the commands R97 lists for them. -/
def Stmt.wf : Stmt → Bool
  | .wr _ v => Stmt.valueOk v
  | .rd _ => true
  | .cmd i => i.wf
  | .reset => true
  | .op1 i a => i.takesOne && Stmt.valueOk a
  | .op2 i a b => i.takesTwo && Stmt.valueOk a && Stmt.valueOk b
  | .settof v => Stmt.valueOk v
  | .ref rx field => Stmt.valueOk rx && Stmt.valueOk field
  | .peer rx => Stmt.valueOk rx

end Sys2Proof
end

