-- ==== Sys2Proof/Decode.lean ====
section
/-! DEFINITION. Decoding and encoding of commands (spec/30_encoding.md R90 to R95), the byte order
of the port and of a frame field (spec/20_memory.md R68, R70), and the address map (R20, R75). -/

namespace Sys2Proof

/-- The value of bytes read little-endian: the first byte is the least significant (R68, R70). -/
def leValue : List Byte → Nat
  | [] => 0
  | x :: xs => x.toNat + 256 * leValue xs

/-- Byte lane `k` of a 64-bit word: bits `8k+7:8k` (R68). -/
def lane (v : Word) (k : Nat) : Byte := v.extractLsb' (8 * k) 8

/-- The eight byte lanes of a word, lane 0 at the lowest byte address (R68). -/
def lanes (v : Word) : List Byte := (List.range 8).map (lane v)

/-- Why a command word encodes no command (R91, R94). -/
inductive DecodeError where
  /-- `w[63:8]` is not 0. -/
  | zeroField
  /-- `w[7:0]` is not the opcode of a command. -/
  | noSuchOpcode
  /-- Not the eight bytes of a 64-bit command word. -/
  | notEightBytes
  deriving DecidableEq, Repr

/-- The command an opcode names: R91's chain over `w[7:0]`, opcode numbers of R92. -/
def decodeOp (op : BitVec 8) : Except DecodeError Instr :=
  if op = 0x01#8 then .ok .rxts
  else if op = 0x02#8 then .ok .fldts
  else if op = 0x03#8 then .ok .ts2ns
  else if op = 0x10#8 then .ok .diff
  else if op = 0x11#8 then .ok .addw
  else if op = 0x12#8 then .ok .tcorr
  else if op = 0x20#8 then .ok .supd
  else if op = 0x21#8 then .ok .proj
  else if op = 0x22#8 then .ok .refev
  else if op = 0x23#8 then .ok .peerev
  else .error .noSuchOpcode

/-- The decoder of R91, total on 64-bit words: the `zero` field first, then the opcode. -/
def decode (w : Word) : Except DecodeError Instr :=
  if w.extractLsb' 8 56 ≠ 0#56 then .error .zeroField
  else decodeOp (w.extractLsb' 0 8)

/-- The decoder on bytes as the port's lanes carry a command word (R68), total on any bytes. -/
def decodeBytes (bs : List Byte) : Except DecodeError Instr :=
  if bs.length = 8 then decode (BitVec.ofNat 64 (leValue bs)) else .error .notEightBytes

/-- The full command word of a command (R92, third column). -/
def encode : Instr → Word
  | .rxts => 0x0000000000000001#64
  | .fldts => 0x0000000000000002#64
  | .ts2ns => 0x0000000000000003#64
  | .diff => 0x0000000000000010#64
  | .addw => 0x0000000000000011#64
  | .tcorr => 0x0000000000000012#64
  | .supd => 0x0000000000000020#64
  | .proj => 0x0000000000000021#64
  | .refev => 0x0000000000000022#64
  | .peerev => 0x0000000000000023#64

/-- The command word as the port's eight byte lanes carry it (R68). -/
def encodeBytes (i : Instr) : List Byte := lanes (encode i)

/-- The command word whose bits, numbered as spec/opcode_table.json numbers them, are the low
`nbits` bits of `w`; every bit above them is 0. -/
def tableWord (nbits w : Nat) : Word := BitVec.ofNat 64 (w % 2 ^ nbits)

/-- The instruction the decoder reads from the bits `w` of a row of spec/opcode_table.json, laid
out in the port's byte lanes. -/
def decodeTableWord (nbits w : Nat) : Option Instr :=
  match decodeBytes (lanes (tableWord nbits w)) with
  | .ok i => some i
  | .error _ => none

/-- The byte offset of a register in the block's window (R20). -/
def Reg.offset : Reg → BitVec 8
  | .a => 0x00#8
  | .b => 0x08#8
  | .res => 0x10#8
  | .cmd => 0x18#8
  | .status => 0x20#8
  | .tof => 0x28#8
  | .p => 0x30#8
  | .n => 0x38#8
  | .ts => 0x40#8
  | .tm => 0x48#8
  | .rnum => 0x50#8
  | .rden => 0x58#8

/-- The register at a byte offset: none where the offset is unmapped or no multiple of 8
(R60, R63). -/
def Reg.ofOffset (addr : BitVec 8) : Option Reg :=
  if addr = 0x00#8 then some .a
  else if addr = 0x08#8 then some .b
  else if addr = 0x10#8 then some .res
  else if addr = 0x18#8 then some .cmd
  else if addr = 0x20#8 then some .status
  else if addr = 0x28#8 then some .tof
  else if addr = 0x30#8 then some .p
  else if addr = 0x38#8 then some .n
  else if addr = 0x40#8 then some .ts
  else if addr = 0x48#8 then some .tm
  else if addr = 0x50#8 then some .rnum
  else if addr = 0x58#8 then some .rden
  else none

/-- Where a register stands in the host's address space: its offset from `BASE` (R75). -/
def Reg.hostAddress (r : Reg) : Nat := Config.BASE + r.offset.toNat

end Sys2Proof
end

