-- ==== Sys2Proof/Machine/State.lean ====
section
/-! DEFINITION. The state of the block, of its port and of the host that drives it
(spec/00_scope.md R9; spec/10_state.md; spec/20_memory.md R60 to R63; spec/60_exceptions.md R180,
R200 to R215; spec/70_reset_and_hazards.md R230), and the state right after reset. -/

namespace Sys2Proof.Machine

/-- The seven completion codes of R180. -/
inductive Code where
  | ok
  | dropped
  | illegal
  | operand
  | overflow
  | divzero
  | range
  deriving DecidableEq, Repr

/-- The stored part of `STATUS` (R26): `LAST` and the five sticky flags. `STATE` is no storage
(R29) and the reserved bits have none (R30); log 9. -/
structure Status where
  last : Code
  fIllegal : Bool
  fOperand : Bool
  fOverflow : Bool
  fDivzero : Bool
  fRange : Bool
  deriving DecidableEq, Repr

/-- The response of a transaction (R61, R62): `ok(v)` of a read, `ok` of a write, or `err`. -/
inductive Response where
  | data (v : Word)
  | ok
  | err
  deriving DecidableEq, Repr

/-- The radio driver's four callbacks (R201, R202). A received frame comes with its bytes and the
captured 40-bit timestamp (R73, R211); log 15. -/
inductive RadioEvent where
  | received (bytes : List Byte) (rxTs : BitVec 40)
  | timeout
  | error
  | transmitConfirmed
  deriving DecidableEq, Repr

/-- What a step takes: one host transaction or a level of the reset input (R44), and on the host's
side a radio event or one turn of the Event Dispatch Loop (R202, R204). -/
inductive Event where
  | txn (t : Txn)
  | rst (level : Bool)
  | radio (e : RadioEvent)
  | loop
  deriving DecidableEq, Repr

/-- The driver functions the loop calls for their effect on the radio (R204, R209, R211). -/
inductive DriverCall where
  | startReceive (mode : Nat)
  | resetReceiveState
  deriving DecidableEq, Repr

/-- The diagnostic log lines of R202, R209 and R213; their text is not given. Log 16. -/
inductive LogLine where
  | timeout
  | error
  deriving DecidableEq, Repr

/-- The report of R214; the two fields taken from the frame are its bytes. Log 16. -/
structure Report where
  sequenceNumber : List Byte
  synchronizedTimeNs : Int
  referenceFrameCount : Nat
  peerIdentifier : Byte × Byte
  deriving DecidableEq, Repr

/-- What the loop does when it has issued the transactions in hand (R205, R206). -/
inductive After where
  /-- Clear the received flag: the frame is done. -/
  | frameDone
  /-- Test the `LAST` field of the `STATUS` just read, for the peer `id` (R242). -/
  | testLast (id : Byte × Byte)
  /-- Keep the `RES` just read. -/
  | takeRes (id : Byte × Byte)
  /-- Take the `N` just read and emit the report (R214). -/
  | takeN (id : Byte × Byte) (res : Word)
  deriving DecidableEq, Repr

/-- Where the Event Dispatch Loop stands in an iteration (R204 to R210). -/
inductive LoopPhase where
  /-- Step 1: instruct the driver to begin listening. -/
  | listen
  /-- Step 2: blocked until a flag is signalled. -/
  | wait
  /-- Step 3: `t`, then `rest`, are still to be issued to the block, then `k`. -/
  | issue (t : Txn) (rest : List Txn) (k : After)
  /-- Step 4: test for timeout or error. -/
  | afterFrame
  deriving DecidableEq, Repr

/-- Bytes by address, in one canonical form (`Memory.wf`): addresses strictly rising; an address
that is not listed has no value. Log 11. -/
abbrev Memory := List Host.Cell

/-- The host: the Event Dispatch Loop, its flags, its frame buffer and what it has put out, and
what the radio driver holds for it (R4, R60, R200 to R215). -/
structure HostAgent where
  received : Bool
  timeout : Bool
  error : Bool
  transmitConfirmed : Bool
  rxBytes : List Byte
  rxTs : BitVec 40
  driverCalls : List DriverCall
  phase : LoopPhase
  buffer : Memory
  frameLen : Nat
  reports : List Report
  log : List LogLine
  deriving DecidableEq, Repr

/-- The machine: the block's period and its registers (R9, R20), the reset input, the response of the latest
transaction, the model's own counter of free reads, the host, and the events still to come. -/
structure State where
  /-- `P`, the rollover period of this instance: its parameter, which nothing writes (R9, R32, R44).
  Log 2. -/
  period : Int
  /-- `A`, the first operand (R21). -/
  a : Word
  /-- `B`, the second operand (R22). -/
  b : Word
  /-- `RES`, the result (R23). -/
  res : Word
  /-- `STATUS`, its stored part (R26). -/
  status : Status
  /-- `TOF`, the time-of-flight estimate (R31). -/
  tof : Word
  /-- `N[31:0]`, the reference-frame counter (R33). -/
  n : BitVec 32
  /-- `TS` (R34). -/
  ts : Word
  /-- `TM` (R35). -/
  tm : Word
  /-- `RNUM` (R36). -/
  rnum : Word
  /-- `RDEN` (R37). -/
  rden : Word
  /-- MODEL's own: how many reads of an unspecified register were answered. Log 4. -/
  freeReads : Nat
  /-- The level of `rst` (R230). Log 5. -/
  inReset : Bool
  /-- The response of the latest transaction; none when there was none since reset. Log 6. -/
  rsp : Option Response
  /-- The host agent. -/
  host : HostAgent
  /-- MODEL's own: the events still to come, the first one next. Log 1. -/
  pending : List Event
  deriving DecidableEq, Repr

/-- What stops the machine. The block itself never does (R192). -/
inductive Fault where
  /-- Raised by `FBRead` where a byte of the field, inside the frame's length, was never written; no
  run from reset reaches it. Safe: it stops where hardware would deliver some byte. Log 11. -/
  | frameByteUnwritten
  deriving DecidableEq, Repr

/-- Steps the model gives no meaning. -/
inductive Refusal where
  /-- Raised by an arm of `exec` whose instruction has no meaning yet; none is left. Safe. -/
  | notModelled (mnemonic : String)
  /-- Raised by a transaction issued while `rst` is asserted (R215; 93_implementation_defined.md
  Part 2: "refuse (no step)"). The spec says that this errs toward proving: unsafe. Log 5. -/
  | transactionDuringReset
  /-- Raised by the host when it would read a timestamp field outside the frame (R71;
  93_implementation_defined.md U7: "refuse"). Unsafe as R215 says. Log 11. -/
  | fieldOutOfBounds
  deriving DecidableEq, Repr

/-- The host at the start: no flag, nothing received, at the top of an iteration. Log 14. -/
def HostAgent.start : HostAgent where
  received := false
  timeout := false
  error := false
  transmitConfirmed := false
  rxBytes := []
  rxTs := 0#40
  driverCalls := []
  phase := .listen
  buffer := []
  frameLen := 0
  reports := []
  log := []

/-- `STATUS = 0`: `LAST = OK` and no sticky flag (R230). -/
def Status.reset : Status where
  last := .ok
  fIllegal := false
  fOperand := false
  fOverflow := false
  fDivzero := false
  fRange := false

/-- The machine right after reset (R20, R230). `TS`, `TM`, `RNUM`, `RDEN` hold the named
placeholder of log 3, which nothing delivers (R232). -/
def State.reset : State where
  period := Config.P
  a := 0#64
  b := 0#64
  res := 0#64
  status := Status.reset
  tof := 0#64
  n := 0#32
  ts := Config.unspecifiedAtReset
  tm := Config.unspecifiedAtReset
  rnum := Config.unspecifiedAtReset
  rden := Config.unspecifiedAtReset
  freeReads := 0
  inReset := false
  rsp := none
  host := HostAgent.start
  pending := []

end Sys2Proof.Machine
end

