-- ==== Sys2Proof/Machine/Flags.lean ====
section
/-! DEFINITION. Completion codes and the fields of `STATUS` (spec/60_exceptions.md R180, R181;
spec/10_state.md R26 to R30, R39). -/

namespace Sys2Proof.Machine

/-- The code's number in `STATUS.LAST` (R180). -/
def Code.number : Code → Nat
  | .ok => 0
  | .dropped => 1
  | .illegal => 2
  | .operand => 3
  | .overflow => 4
  | .divzero => 5
  | .range => 6

/-- The five fault codes; `OK` and `DROPPED` are none (R180, R187). -/
def Code.isFault : Code → Bool
  | .ok | .dropped => false
  | .illegal | .operand | .overflow | .divzero | .range => true

/-- What `complete(code)` does to `STATUS` (R181): `LAST` takes the code, a fault code sets its
sticky flag, and no flag is cleared (R28). -/
def Status.record (st : Status) (c : Code) : Status where
  last := c
  fIllegal := st.fIllegal || c == .illegal
  fOperand := st.fOperand || c == .operand
  fOverflow := st.fOverflow || c == .overflow
  fDivzero := st.fDivzero || c == .divzero
  fRange := st.fRange || c == .range

/-- `STATUS.STATE`: `min(uint(N), 2)` (R29), 0 Uninitialized, 1 Seeded, 2 Synchronized (R39). -/
def stateField (n : BitVec 32) : Nat := min n.toNat 2

/-- `STATUS` as a host read assembles it (R26, R29, R61): `LAST` in bits 3:0, the sticky flags in
bits 12:8, `STATE` in bits 17:16, every other bit 0 (R30). -/
def statusWord (st : Status) (n : BitVec 32) : Word :=
  BitVec.ofNat 64 (st.last.number + 2 ^ 8 * st.fIllegal.toNat + 2 ^ 9 * st.fOperand.toNat
    + 2 ^ 10 * st.fOverflow.toNat + 2 ^ 11 * st.fDivzero.toNat + 2 ^ 12 * st.fRange.toNat
    + 2 ^ 16 * stateField n)

end Sys2Proof.Machine
end

