-- ==== Sys2Proof/Machine/Ops.lean ====
section
/-! DEFINITION. The named operations on registers, on the port's response and on the host's frame
buffer, and the one operation that ends a command (spec/60_exceptions.md R181; spec/10_state.md
R21 to R37; spec/20_memory.md R60, R70, R71; spec/70_reset_and_hazards.md R230). -/

namespace Sys2Proof.Machine

/-- `f` on the next state (or value); a fault or a refusal stays as it is. -/
def andThen {α β : Type} (o : Host.Outcome α Fault Refusal) (f : α → Host.Outcome β Fault Refusal) :
    Host.Outcome β Fault Refusal :=
  match o with
  | .next x => f x
  | .fault r => .fault r
  | .refused r => .refused r

/-! Registers. -/

/-- `RES <- v` (R23). -/
def State.setRes (s : State) (v : Word) : State := { s with res := v }

/-- The host's `A <- v` (R62). -/
def State.setA (s : State) (v : Word) : State := { s with a := v }

/-- The host's `B <- v` (R62). -/
def State.setB (s : State) (v : Word) : State := { s with b := v }

/-- The host's `TOF <- v` (R66). -/
def State.setTof (s : State) (v : Word) : State := { s with tof := v }

/-- `TS <- r ; TM <- m ; N <- n`, the sample a model update stores (R152). -/
def State.setSample (s : State) (r m : Word) (n : BitVec 32) : State :=
  { s with ts := r, tm := m, n := n }

/-- `RNUM <- num ; RDEN <- den` (R152). -/
def State.setRatio (s : State) (num den : Word) : State := { s with rnum := num, rden := den }

/-- The response of the transaction that just completed (R61, R62). -/
def State.respond (s : State) (r : Response) : State := { s with rsp := some r }

/-- One more host read of an unspecified register has been answered (R232). -/
def State.countFreeRead (s : State) : State := { s with freeReads := s.freeReads + 1 }

/-- The host agent's part of the state replaced. -/
def State.setHost (s : State) (h : HostAgent) : State := { s with host := h }

/-- The events still to come replaced. -/
def State.setPending (s : State) (es : List Event) : State := { s with pending := es }

/-- `rst` asserted (R230): from now on no transaction is accepted. -/
def State.assertReset (s : State) : State := { s with inReset := true }

/-- `rst` released (R230): every register of the block at its reset value, `P` the constant of the
instance. The host, the events to come and the count of free reads are no registers of the block and
stay; log 5. -/
def State.releaseReset (s : State) : State :=
  { State.reset with
    period := s.period
    freeReads := s.freeReads
    host := s.host
    pending := s.pending }

/-! Ending a command. -/

/-- `complete(code)` on the state (R181): only `STATUS` changes. -/
def State.complete (s : State) (c : Code) : State := { s with status := s.status.record c }

/-- `complete(code)` as the end of a command (R181): the block goes on (R192). -/
def complete (c : Code) (s : State) : Host.Outcome State Fault Refusal := .next (s.complete c)

/-- `RES <- v ; complete(OK)`, the end of a value-producing command (R23). -/
def deliver (v : Word) (s : State) : Host.Outcome State Fault Refusal :=
  complete .ok (s.setRes v)

/-! The frame buffer (R60(b)). -/

/-- One byte of the buffer; none where nothing has been written. -/
def Memory.read (m : Memory) (a : Nat) : Option Byte :=
  match m with
  | [] => none
  | c :: cs => if c.1 = a then some c.2 else Memory.read cs a

/-- `m` with the byte at `a` written; the cells stay in the order of their addresses. -/
def Memory.write (m : Memory) (a : Nat) (v : Byte) : Memory :=
  match m with
  | [] => [(a, v)]
  | c :: cs =>
    if a < c.1 then (a, v) :: c :: cs
    else if a = c.1 then (a, v) :: cs
    else c :: Memory.write cs a v

/-- Bytes written to consecutive addresses from `a` on. -/
def Memory.fill (m : Memory) (a : Nat) (bs : List Byte) : Memory :=
  match bs with
  | [] => m
  | x :: xs => Memory.fill (m.write a x) (a + 1) xs

/-- The canonical form: addresses strictly rising. (An unlisted address reads as no value, so no
entry can equal it.) -/
def Memory.wf : Memory → Bool
  | [] => true
  | c :: cs => cs.all (fun d => decide (c.1 < d.1)) && Memory.wf cs

/-- The `k` bytes from `a` on, none if one of them is unwritten. -/
def Memory.readBytes (m : Memory) (a : Nat) : Nat → Option (List Byte)
  | 0 => some []
  | k + 1 =>
    match m.read a, Memory.readBytes m (a + 1) k with
    | some x, some xs => some (x :: xs)
    | _, _ => none

/-- A byte of the buffer's content: what was last written there, or a free value where nothing has
been written (log 19). -/
def HostAgent.bufferByte (h : HostAgent) (a : Nat) : Byte :=
  match h.buffer.read a with
  | some v => v
  | none => Config.unwrittenByte a

/-- The `k` bytes of the buffer's content from `off` on. -/
def HostAgent.bufferBytes (h : HostAgent) (off k : Nat) : List Byte :=
  (List.range k).map fun j => h.bufferByte (off + j)

/-- The bytes of a timestamp field of the frame in the buffer. A field outside the frame's length is
refused (R71, U7); a byte never written is a fault (log 11). -/
def fieldBytes (h : HostAgent) (off k : Nat) : Host.Outcome (List Byte) Fault Refusal :=
  if off + k ≤ h.frameLen then
    match h.buffer.readBytes off k with
    | some bs => .next bs
    | none => .fault .frameByteUnwritten
  else .refused .fieldOutOfBounds

/-- `FBRead(off, 4)`, the little-endian value of a 4-byte field of the frame (R70). -/
def fbRead (h : HostAgent) (off : Nat) : Host.Outcome (BitVec 32) Fault Refusal :=
  andThen (fieldBytes h off 4) fun bs => .next (BitVec.ofNat 32 (leValue bs))

end Sys2Proof.Machine
end

