-- ==== Sys2Proof/Machine/Operands.lean ====
section
/-! DEFINITION. Operand assembly and the exact-integer functions of the three units
(spec/00_scope.md R15, R16; spec/30_encoding.md R93; spec/40_codec.md R110, R111;
spec/41_rollover.md R130, R131). -/

namespace Sys2Proof.Machine

/-- `uint(v)` (R15). -/
def uint (v : Word) : Nat := v.toNat

/-- `sint(v)` (R15). -/
def sint (v : Word) : Int := v.toInt

/-- The 64-bit two's-complement word of an integer: a register write of an exact value (R16). For a
value in `[0, 2^63)` it is `zext_64`. -/
def narrow (x : Int) : Word := BitVec.ofInt 64 x

/-- `A[39:0]`, a receive timestamp in ticks (R73, R93). -/
def ticksOf (v : Word) : BitVec 40 := v.extractLsb' 0 40

/-- `A[31:0]` or `B[31:0]`, a timestamp field (R72, R93). -/
def fieldOf (v : Word) : BitVec 32 := v.extractLsb' 0 32

/-- The precondition of `diff`: `0 <= x < p` (R130). -/
abbrev InPeriod (p x : Int) : Prop := 0 ≤ x ∧ x < p

/-- The integers of 64 bits signed, `[-2^63, 2^63)` (R133). -/
abbrev FitsI64 (x : Int) : Prop := -2 ^ 63 ≤ x ∧ x < 2 ^ 63

/-- `field2ts(f) = (f * 2^8) & MASK40` (R110). -/
def field2ts (f : BitVec 32) : Nat := (f.toNat * 2 ^ 8) &&& Config.MASK40

/-- `ticks2ns(t) = floor(t * 625 / 39936)`, exact (R111; 90_conflicts.md C1). -/
def ticks2ns (t : Nat) : Nat := t * Config.NS_NUM / Config.NS_DEN

/-- `diffP(a, b)` with rollover period `p` (R130). -/
def diffP (p a b : Int) : Int :=
  let d := a - b
  if d < 0 then d + p else d

/-- `addwP(a, b)` with rollover period `p`: one correction at most (R131). -/
def addwP (p a b : Int) : Int :=
  let s := a + b
  if s ≥ p then s - p else if s < 0 then s + p else s

/-- `min(uint(N) + 1, 2^32 - 1)`: the counter saturates (R33, R152). -/
def countUp (n : BitVec 32) : BitVec 32 := BitVec.ofNat 32 (min (n.toNat + 1) (2 ^ 32 - 1))

end Sys2Proof.Machine
end

