-- ==== Sys2Proof/Machine/Codec.lean ====
section
/-! DEFINITION. The Timestamp Codec commands (spec/40_codec.md R112 to R114). -/

namespace Sys2Proof.Machine

/-- `RXTS` (R112). -/
def execRxts (s : State) : Host.Outcome State Fault Refusal :=
  deliver ((ticksOf s.a).setWidth 64) s

/-- `FLDTS` (R113). -/
def execFldts (s : State) : Host.Outcome State Fault Refusal :=
  deliver (narrow (field2ts (fieldOf s.a))) s

/-- `TS2NS` (R114): an operand of more than 40 bits raises `OPERAND`. -/
def execTs2ns (s : State) : Host.Outcome State Fault Refusal :=
  if uint s.a ≥ 2 ^ 40 then complete .operand s
  else deliver (narrow (ticks2ns (uint s.a))) s

end Sys2Proof.Machine
end

