-- ==== Sys2Proof/Machine/Rollover.lean ====
section
/-! DEFINITION. The Rollover Clock Arithmetic commands (spec/41_rollover.md R132 to R134). -/

namespace Sys2Proof.Machine

/-- `DIFF` (R132). -/
def execDiff (s : State) : Host.Outcome State Fault Refusal :=
  if InPeriod s.period (sint s.a) ∧ InPeriod s.period (sint s.b) then
    deliver (narrow (diffP s.period (sint s.a) (sint s.b))) s
  else complete .operand s

/-- `ADDW` (R133): the literal function on every 64-bit operand, unless the exact sum does not fit. -/
def execAddw (s : State) : Host.Outcome State Fault Refusal :=
  if FitsI64 (sint s.a + sint s.b) then
    deliver (narrow (addwP s.period (sint s.a) (sint s.b))) s
  else complete .overflow s

/-- `TCORR` (R134). -/
def execTcorr (s : State) : Host.Outcome State Fault Refusal :=
  if InPeriod s.period (sint s.a) then
    deliver (narrow (diffP s.period (sint s.a) (sint s.tof))) s
  else complete .operand s

end Sys2Proof.Machine
end

