-- ==== Sys2Proof/Machine/Sync.lean ====
section
/-! DEFINITION. The Synchronization Model commands (spec/42_sync.md R150 to R164). -/

namespace Sys2Proof.Machine

/-- `supd(r, m)`, the update by a reference observation (R152). A zero interval skips the whole
update and raises `DIVZERO` (R154). -/
def supd (r m : Int) (s : State) : Host.Outcome State Fault Refusal :=
  if s.n.toNat = 0 then complete .ok (s.setSample (narrow r) (narrow m) 1#32)
  else if diffP s.period r (sint s.ts) = 0 then complete .divzero s
  else
    complete .ok
      ((s.setRatio (narrow (diffP s.period m (sint s.tm))) (narrow (diffP s.period r (sint s.ts)))).setSample
        (narrow r) (narrow m) (countUp s.n))

/-- `q + TM` of the projection: `floor(RNUM * delta / RDEN) + TM`, the product exact (R156). On
`RDEN < 1`, which no reachable state with `N >= 2` has (R43), log 8. -/
def projectionSum (t : Int) (s : State) : Int :=
  sint s.rnum * diffP s.period t (sint s.ts) / sint s.rden + sint s.tm

/-- `proj(t)` (R156): at most one correction by `P`; a sum of `2P` or more raises `RANGE`
(90_conflicts.md C2). -/
def project (t : Int) (s : State) : Host.Outcome State Fault Refusal :=
  if projectionSum t s < s.period then deliver (narrow (projectionSum t s)) s
  else if projectionSum t s < 2 * s.period then
    deliver (narrow (projectionSum t s - s.period)) s
  else complete .range s

/-- `SUPD` (R153): `OPERAND` is checked first, in every state (R190). -/
def execSupd (s : State) : Host.Outcome State Fault Refusal :=
  if InPeriod s.period (sint s.a) ∧ InPeriod s.period (sint s.b) then supd (sint s.a) (sint s.b) s
  else complete .operand s

/-- `PROJ` (R157): `DROPPED` comes before any look at `A` (R190). -/
def execProj (s : State) : Host.Outcome State Fault Refusal :=
  if s.n.toNat < 2 then complete .dropped s
  else if InPeriod s.period (sint s.a) then project (sint s.a) s
  else complete .operand s

/-- `REFEV` (R158): codec, time-of-flight correction and update in one command. -/
def execRefev (s : State) : Host.Outcome State Fault Refusal :=
  supd (ticks2ns (ticksOf s.a).toNat)
    (diffP s.period (ticks2ns (field2ts (fieldOf s.b))) (sint s.tof)) s

/-- `PEEREV` (R159): codec and projection in one command. -/
def execPeerev (s : State) : Host.Outcome State Fault Refusal :=
  if s.n.toNat < 2 then complete .dropped s
  else project (ticks2ns (ticksOf s.a).toNat) s

end Sys2Proof.Machine
end

