-- ==== Sys2Proof/Machine/Dispatch.lean ====
section
/-! DEFINITION. One arm per command (spec/30_encoding.md R91, R92). -/

namespace Sys2Proof.Machine

def exec (i : Instr) (s : State) : Host.Outcome State Fault Refusal :=
  match i with
  | .rxts => Sys2Proof.Machine.execRxts s
  | .fldts => Sys2Proof.Machine.execFldts s
  | .ts2ns => Sys2Proof.Machine.execTs2ns s
  | .diff => Sys2Proof.Machine.execDiff s
  | .addw => Sys2Proof.Machine.execAddw s
  | .tcorr => Sys2Proof.Machine.execTcorr s
  | .supd => Sys2Proof.Machine.execSupd s
  | .proj => Sys2Proof.Machine.execProj s
  | .refev => Sys2Proof.Machine.execRefev s
  | .peerev => Sys2Proof.Machine.execPeerev s

end Sys2Proof.Machine
end

