-- ==== Sys2Proof/Machine/Port.lean ====
section
/-! DEFINITION. The host's transactions on the register port (spec/20_memory.md R61 to R67), the
command a write of `CMD` runs (spec/30_encoding.md R91), and the reset input
(spec/70_reset_and_hazards.md R230). -/

namespace Sys2Proof.Machine

/-- The register a transaction addresses; none where its size, its alignment or its offset is a
port error (R63, R69). -/
def portReg (addr : BitVec 8) (size : BitVec 4) : Option Reg :=
  if size = 8#4 then Reg.ofOffset addr else none

/-- What a host read of a register returns where its value is specified; none for `CMD`, which has
no storage and is not readable (R20, R25, R61). -/
def regValue (s : State) : Reg → Option Word
  | .a => some s.a
  | .b => some s.b
  | .res => some s.res
  | .cmd => none
  | .status => some (statusWord s.status s.n)
  | .tof => some s.tof
  | .p => some (narrow s.period)
  | .n => some (s.n.setWidth 64)
  | .ts => some s.ts
  | .tm => some s.tm
  | .rnum => some s.rnum
  | .rden => some s.rden

/-- Whether the register's value is unspecified now: `TS`, `TM` until `N >= 1`, `RNUM`, `RDEN` until
`N >= 2` (R34 to R37, R232). -/
def unspecified (s : State) : Reg → Bool
  | .ts | .tm => decide (s.n.toNat < 1)
  | .rnum | .rden => decide (s.n.toNat < 2)
  | .a | .b | .res | .cmd | .status | .tof | .p | .n => false

/-- `MemRead` (R61): `ok(v)` or `err`. A read of an unspecified register returns a free value,
fresh for each read (R232); no register changes (R67). -/
def portRead (addr : BitVec 8) (size : BitVec 4) (s : State) : State :=
  match portReg addr size with
  | none => s.respond .err
  | some r =>
    if unspecified s r then s.countFreeRead.respond (.data (Config.freeRead s.freeReads))
    else
      match regValue s r with
      | some v => s.respond (.data v)
      | none => s.respond .err

/-- The command a 64-bit word encodes, run to its end; a word that encodes none completes with
`ILLEGAL` (R91, R94, R182). -/
def runCommand (w : Word) (s : State) : Host.Outcome State Fault Refusal :=
  match decode w with
  | .ok i => exec i s
  | .error _ => complete .illegal s

/-- A write of `TOF`: legal values are `0 <= sint(v) < P` (R66). -/
def writeTof (v : Word) (s : State) : State :=
  if InPeriod s.period (sint v) then (s.setTof v).respond .ok else s.respond .err

/-- `MemWrite` (R62). A write of `CMD` gets `ok` whatever the command's completion code. -/
def portWrite (addr : BitVec 8) (size : BitVec 4) (v : Word) (s : State) :
    Host.Outcome State Fault Refusal :=
  match portReg addr size with
  | some .a => .next ((s.setA v).respond .ok)
  | some .b => .next ((s.setB v).respond .ok)
  | some .tof => .next (writeTof v s)
  | some .cmd => andThen (runCommand v s) fun s' => .next (s'.respond .ok)
  | _ => .next (s.respond .err)

/-- One transaction (R61, R62, R64); while `rst` is asserted the model gives it no step (R215). -/
def transact (t : Txn) (s : State) : Host.Outcome State Fault Refusal :=
  if s.inReset then .refused .transactionDuringReset
  else
    match t with
    | .read addr size => .next (portRead addr size s)
    | .write addr size v => portWrite addr size v s

/-- The reset input at a level (R230): asserted, or released after it was asserted. A low level
while `rst` is low changes nothing. Log 5. -/
def resetInput (level : Bool) (s : State) : State :=
  if level then s.assertReset else if s.inReset then s.releaseReset else s

/-- The write of `CMD` that issues the command word of an opcode-table row. -/
def tableTxn (nbits w : Nat) : Txn := .write 0x18#8 8#4 (tableWord nbits w)

end Sys2Proof.Machine
end

