-- ==== Sys2Proof/Machine/HostLoop.lean ====
section
/-! DEFINITION. The host agent: the radio driver's callbacks and the Event Dispatch Loop with its
Frame Classifier (spec/60_exceptions.md R201 to R214; spec/20_memory.md R70 to R74). -/

namespace Sys2Proof.Machine

/-- A callback of the radio driver: it sets exactly one flag, and logs a timeout or an error (R202).
A received frame is then what the driver holds (R211); log 15. -/
def HostAgent.callback (h : HostAgent) : RadioEvent → HostAgent
  | .received bs ts => { h with received := true, rxBytes := bs, rxTs := ts }
  | .timeout => { h with timeout := true, log := .timeout :: h.log }
  | .error => { h with error := true, log := .error :: h.log }
  | .transmitConfirmed => { h with transmitConfirmed := true }

/-- The host write of a register (R96 `wr`). -/
def wrTxn (r : Reg) (v : Word) : Txn := .write r.offset 8#4 v

/-- The host read of a register (R96 `rd`). -/
def rdTxn (r : Reg) : Txn := .read r.offset 8#4

/-- The write of a command's word to `CMD` (R96 `cmd`). -/
def cmdTxn (i : Instr) : Txn := wrTxn .cmd (encode i)

/-- The loop at another point of its iteration. -/
def State.setPhase (s : State) (p : LoopPhase) : State := s.setHost { s.host with phase := p }

/-- The end of step 3: the received flag is cleared (R205). -/
def State.frameDone (s : State) : State :=
  s.setHost { s.host with received := false, phase := .afterFrame }

/-- Step 1 (R204): the driver is told to begin listening; nothing is waited for. -/
def startListening (cfg : HostConfig) (s : State) : State :=
  s.setHost { s.host with driverCalls := .startReceive cfg.rxMode :: s.host.driverCalls, phase := .wait }

/-- Step 4 (R209): after a timeout or an error the driver's receive state is reset and both flags
are cleared; no data is processed. Then the iteration is over. -/
def endIteration (s : State) : State :=
  if s.host.timeout || s.host.error then
    s.setHost { s.host with
      driverCalls := .resetReceiveState :: s.host.driverCalls
      timeout := false
      error := false
      phase := .listen }
  else s.setPhase .listen

/-- `read_rx_frame`: the driver's frame is now in the host's buffer (R60, R211). Log 11. -/
def HostAgent.readFrame (h : HostAgent) : HostAgent :=
  { h with buffer := h.buffer.fill 0 h.rxBytes, frameLen := h.rxBytes.length }

/-- The 2-character source identifier: a pure, total function of the buffer's content (R208). Where
the frame is too short to hold it, log 19. -/
def sourceId (cfg : HostConfig) (h : HostAgent) : Byte × Byte :=
  (h.bufferByte cfg.idOff, h.bufferByte (cfg.idOff + 1))

/-- The receive timestamp as the host places it in `A` (R73). -/
def rxWord (h : HostAgent) : Word := h.rxTs.setWidth 64

/-- A Reference frame: the loop goes on to issue `ref rx, field` (R206). Log 13. A frame too short
to hold the timestamp field is refused (R71). -/
def feedReference (cfg : HostConfig) (s : State) : Host.Outcome State Fault Refusal :=
  andThen (fbRead s.host cfg.txtsOff) fun f =>
    .next (s.setPhase (.issue (wrTxn .a (rxWord s.host)) [wrTxn .b (f.setWidth 64), cmdTxn .refev] .frameDone))

/-- A Peer frame: the loop goes on to issue `peer rx` and to read `STATUS` (R206, R242). Log 13. -/
def feedPeer (id : Byte × Byte) (s : State) : State :=
  s.setPhase (.issue (wrTxn .a (rxWord s.host)) [cmdTxn .peerev, rdTxn .status] (.testLast id))

/-- Step 3 (R205 to R208): an oversized frame is dropped with no transaction; otherwise the frame is
read, and is Reference or Peer: there is no third class (R208). -/
def dispatchFrame (cfg : HostConfig) (s : State) : Host.Outcome State Fault Refusal :=
  if s.host.rxBytes.length > cfg.cap then .next s.frameDone
  else if sourceId cfg s.host.readFrame = cfg.refId then
    feedReference cfg (s.setHost s.host.readFrame)
  else .next (feedPeer (sourceId cfg s.host.readFrame) (s.setHost s.host.readFrame))

/-- The report of a projected peer frame (R160, R214). Where the frame is too short to hold the
sequence number, log 19. -/
def emitReport (cfg : HostConfig) (id : Byte × Byte) (res n : Word) (s : State) : State :=
  s.setHost { s.host with
    reports := ⟨s.host.bufferBytes cfg.seqOff cfg.seqLen, sint res, uint n, id⟩ :: s.host.reports
    received := false
    phase := .afterFrame }

/-- What the loop does once its transactions are answered: `v` is the data of the last response,
if it carried any (R206, R242). -/
def continueWith (cfg : HostConfig) (k : After) (v : Option Word) (s : State) : State :=
  match k, v with
  | .testLast id, some st =>
    if st.extractLsb' 0 4 = 0#4 then s.setPhase (.issue (rdTxn .res) [] (.takeRes id))
    else s.frameDone
  | .takeRes id, some res => s.setPhase (.issue (rdTxn .n) [] (.takeN id res))
  | .takeN id res, some n => emitReport cfg id res n s
  | _, _ => s.frameDone

/-- The data of the latest response, if it carried any. -/
def State.responseData (s : State) : Option Word :=
  match s.rsp with
  | some (.data v) => some v
  | _ => none

/-- One turn of the loop while it has transactions to issue: it issues one. -/
def issueNext (cfg : HostConfig) (t : Txn) (rest : List Txn) (k : After) (s : State) :
    Host.Outcome State Fault Refusal :=
  andThen (transact t s) fun s' =>
    match rest with
    | t' :: ts => .next (s'.setPhase (.issue t' ts k))
    | [] => .next (continueWith cfg k s'.responseData s')

/-- One turn of the Event Dispatch Loop (R204 to R210). The wait is on received, timeout and error;
received is tested first (R202). -/
def loopTurn (cfg : HostConfig) (s : State) : Host.Outcome State Fault Refusal :=
  match s.host.phase with
  | .listen => .next (startListening cfg s)
  | .wait =>
    if s.host.received then dispatchFrame cfg s
    else if s.host.timeout || s.host.error then .next (s.setPhase .afterFrame)
    else .next s
  | .issue t rest k => issueNext cfg t rest k s
  | .afterFrame => .next (endIteration s)

/-- One event. -/
def handle (e : Event) (s : State) : Host.Outcome State Fault Refusal :=
  match e with
  | .txn t => transact t s
  | .rst level => .next (resetInput level s)
  | .radio r => .next (s.setHost (s.host.callback r))
  | .loop => loopTurn Config.host s

end Sys2Proof.Machine
end

