-- ==== Sys2Proof/Machine/Script.lean ====
section
/-! DEFINITION. What a script's statements stand for (spec/30_encoding.md R96, R97). -/

namespace Sys2Proof.Machine

/-- `wr REG, value` (R96). -/
def wrEvent (r : Reg) (v : Int) : Event := .txn (wrTxn r (narrow v))

/-- `cmd MNEMONIC` (R96). -/
def cmdEvent (i : Instr) : Event := .txn (cmdTxn i)

/-- The events a statement or a pseudo-statement stands for (R96, R97). -/
def expand : Stmt → List Event
  | .wr r v => [wrEvent r v]
  | .rd r => [.txn (rdTxn r)]
  | .cmd i => [cmdEvent i]
  | .reset => [.rst true, .rst false]
  | .op1 i a => [wrEvent .a a, cmdEvent i]
  | .op2 i a b => [wrEvent .a a, wrEvent .b b, cmdEvent i]
  | .settof v => [wrEvent .tof v]
  | .ref rx field => [wrEvent .a rx, wrEvent .b field, cmdEvent .refev]
  | .peer rx => [wrEvent .a rx, cmdEvent .peerev]

/-- The state in which a script is what comes next. -/
def State.load (s : State) (script : List Stmt) : State := s.setPending (script.flatMap expand)

end Sys2Proof.Machine
end

