-- ==== Sys2Proof/Machine/Step.lean ====
section
/-! DEFINITION. One step: the next event of the list (spec/10_state.md R44). -/

namespace Sys2Proof.Machine

/-- One step takes the next event. With none, nothing happens: the block has no step of its own
(R44). Log 1. -/
def step (s : State) : Host.Outcome State Fault Refusal :=
  match s.pending with
  | [] => .next s
  | e :: rest => handle e (s.setPending rest)

/-- `s` with the write of this command word to `CMD` as the next transaction, and `rst` not asserted,
so that the port accepts it (R24, R62). -/
def State.withFetchWord (s : State) (nbits w : Nat) : State :=
  { s with inReset := false, pending := .txn (tableTxn nbits w) :: s.pending }

end Sys2Proof.Machine
end

