-- ==== Sys2Proof/Safety.lean ====
section
/-! DEFINITION. What counts as a safe state and a safe run, in the terms the claims use
(spec/10_state.md R43; spec/70_reset_and_hazards.md R232; spec/92_eei_decisions.md D8). -/

namespace Sys2Proof.Machine

/-- The reserved bits 7:4, 15:13 and 63:18 of a `STATUS` word are 0 (R26, R43). -/
abbrev ReservedClear (w : Word) : Prop :=
  w.extractLsb' 4 4 = 0#4 ∧ w.extractLsb' 13 3 = 0#3 ∧ w.extractLsb' 18 46 = 0#46

/-- The constraint of R9 on the period, and the invariant of R43 on the block's registers, clause by
clause; `uint(N) <= 2^32 - 1` is of the register as a host reads it. -/
abbrev State.RegsInv (s : State) : Prop :=
  Config.Admitted s.period
  ∧ InPeriod s.period (sint s.tof)
  ∧ (s.n.setWidth 64).toNat ≤ 2 ^ 32 - 1
  ∧ (1 ≤ s.n.toNat → InPeriod s.period (sint s.ts) ∧ InPeriod s.period (sint s.tm))
  ∧ (2 ≤ s.n.toNat →
      InPeriod s.period (sint s.rnum) ∧ 1 ≤ sint s.rden ∧ sint s.rden < s.period)
  ∧ ReservedClear (statusWord s.status s.n)
  ∧ ((statusWord s.status s.n).extractLsb' 0 4).toNat ≤ 6

/-- The frame buffer is in its canonical form and holds every byte of the frame (log 11). -/
abbrev State.BufferInv (s : State) : Prop :=
  s.host.buffer.wf = true ∧ ∀ a < s.host.frameLen, (s.host.buffer.read a).isSome = true

/-- The invariant of the machine. -/
abbrev State.Inv (s : State) : Prop := s.RegsInv ∧ s.BufferInv

/-- No fault has been recorded since reset: the premise D8 keeps available to a claim. -/
abbrev State.NoStickyFlag (s : State) : Prop :=
  s.status.fIllegal = false ∧ s.status.fOperand = false ∧ s.status.fOverflow = false
  ∧ s.status.fDivzero = false ∧ s.status.fRange = false

/-- `s` with every register whose value is unspecified (R34 to R37) blotted out. -/
def State.specified (s : State) : State :=
  { s with
    ts := if s.n.toNat < 1 then 0#64 else s.ts
    tm := if s.n.toNat < 1 then 0#64 else s.tm
    rnum := if s.n.toNat < 2 then 0#64 else s.rnum
    rden := if s.n.toNat < 2 then 0#64 else s.rden }

/-- Two states that differ at most in registers whose value is unspecified. -/
abbrev SameSpecified (s t : State) : Prop := s.specified = t.specified

/-- Two steps that end alike: both in states that differ at most in unspecified registers, or both
stopped for the same reason. -/
def SameOutcome (o p : Host.Outcome State Fault Refusal) : Prop :=
  match o, p with
  | .next s, .next t => SameSpecified s t
  | .fault r, .fault r' => r = r'
  | .refused r, .refused r' => r = r'
  | _, _ => False

end Sys2Proof.Machine
end

