-- ==== Sys2Proof/Certificates/Slice0/Obligations.lean ====
section
/-! DEFINITION. The statements for the provers, from the numbered rules of spec/. An effect is
written as an equation for the whole next state, so that it is its own frame: every register, the
response, the host, its frame buffer (every byte of it) and the events to come are as before but for
the fields named. `InPeriod p x` is `0 <= x < p`. The period `s.period` is the parameter `P` of R9:
statements hold for every period it admits, `Config.Admitted`; `State.reset` has this hardware's. -/

open Sys2Proof Sys2Proof.Machine

/-! ## Timestamp Codec -/

/-- R112. `RXTS` is word 1. From every state `RES` takes the low 40 bits of `A`, zero-extended, the
code is `OK`, and nothing else changes. -/
def Obligations.RxtsMasksToFortyBits : Prop :=
  decode 0x0000000000000001#64 = .ok .rxts
  ∧ ∀ s : State, exec .rxts s =
      .next { s with
        res := BitVec.ofNat 64 (s.a.toNat % 2 ^ 40)
        status := { s.status with last := .ok } }

/-- R113. `FLDTS` is word 2. From every state `RES` takes the 32-bit field in `A` times 256, the code
is `OK`, and nothing else changes; bits 7:0 and 63:40 of `RES` are 0. -/
def Obligations.FldtsShiftsField : Prop :=
  decode 0x0000000000000002#64 = .ok .fldts
  ∧ ∀ s : State, ∃ v : Word,
      v.toNat = s.a.toNat % 2 ^ 32 * 256
      ∧ v.extractLsb' 0 8 = 0#8 ∧ v.extractLsb' 40 24 = 0#24
      ∧ exec .fldts s =
          .next { s with res := v, status := { s.status with last := .ok } }

/-- R114. `TS2NS` is word 3. With `A < 2^40` `RES` takes `floor(A * 625 / 39936)`, at most
17207401025, with `OK`; otherwise only `LAST` and `F_OPERAND` change. -/
def Obligations.Ts2nsConvertsOrRefusesOperand : Prop :=
  decode 0x0000000000000003#64 = .ok .ts2ns
  ∧ ∀ s : State,
      (s.a.toNat < 2 ^ 40 → ∃ v : Word,
        v.toNat = s.a.toNat * 625 / 39936 ∧ v.toNat ≤ 17207401025
        ∧ exec .ts2ns s =
            .next { s with res := v, status := { s.status with last := .ok } })
      ∧ (2 ^ 40 ≤ s.a.toNat → exec .ts2ns s =
          .next { s with status := { s.status with last := .operand, fOperand := true } })

/-- R115. Between two states whose operands are 40-bit timestamps in order, the results of `TS2NS`
are in order; not strictly: 64 consecutive ticks give 0. -/
def Obligations.ConverterIsMonotonic : Prop :=
  (∀ s t : State, s.a.toNat ≤ t.a.toNat → t.a.toNat < 2 ^ 40 →
    ∃ s' t', exec .ts2ns s = .next s' ∧ exec .ts2ns t = .next t' ∧ s'.res.toNat ≤ t'.res.toNat)
  ∧ ∀ s : State, s.a.toNat < 64 → ∃ s', exec .ts2ns s = .next s' ∧ s'.res.toNat = 0

/-- R116 and R117. For a 40-bit timestamp `t` the result `n` of `TS2NS` is less than one nanosecond
below `t * 625 / 39936` and never above it, so scaling `n` back recovers `t` to within
`39936/625` ticks. -/
def Obligations.ConverterErrorBelowOneNanosecond : Prop :=
  ∀ s : State, s.a.toNat < 2 ^ 40 → ∃ s', exec .ts2ns s = .next s'
    ∧ (0 : ℚ) ≤ (s.a.toNat : ℚ) * 625 / 39936 - (s'.res.toNat : ℚ)
    ∧ (s.a.toNat : ℚ) * 625 / 39936 - (s'.res.toNat : ℚ) < 1
    ∧ (s'.res.toNat : ℚ) * 39936 / 625 ≤ (s.a.toNat : ℚ)
    ∧ (s.a.toNat : ℚ) < ((s'.res.toNat : ℚ) + 1) * 39936 / 625

/-- R9, R114. Every output of the converter is in `[0, p)` for every admitted period `p`; and the
largest, this hardware's `P - 1`, is the result of exactly the timestamps from 1099511627736 on, so
no smaller integer would do for `P`. -/
def Obligations.ConverterReachesPeriodMinusOne : Prop :=
  ∀ s : State, s.a.toNat < 2 ^ 40 → ∃ s', exec .ts2ns s = .next s'
    ∧ (∀ p, Config.Admitted p → InPeriod p (sint s'.res))
    ∧ (sint s'.res = Config.P - 1 ↔ 1099511627736 ≤ s.a.toNat)

/-! ## Rollover Clock Arithmetic -/

/-- R132. `DIFF` is word 0x10. With both operands in `[0, P)` `RES` takes `A - B`, plus `P` if that is
negative, a value in `[0, P)`, with `OK`; otherwise only `LAST` and `F_OPERAND` change. -/
def Obligations.DiffSubtractsModuloPeriod : Prop :=
  decode 0x0000000000000010#64 = .ok .diff
  ∧ ∀ s : State, Config.Admitted s.period →
      (InPeriod s.period (sint s.a) ∧ InPeriod s.period (sint s.b) → ∃ v : Word,
        sint v = (if sint s.a < sint s.b then sint s.a - sint s.b + s.period else sint s.a - sint s.b)
        ∧ InPeriod s.period (sint v)
        ∧ exec .diff s = .next { s with res := v, status := { s.status with last := .ok } })
      ∧ (¬ (InPeriod s.period (sint s.a) ∧ InPeriod s.period (sint s.b)) → exec .diff s =
          .next { s with status := { s.status with last := .operand, fOperand := true } })

/-- R135, for every period: the laws of `diffP` and `addwP` on operands in `[0, p)`. -/
def Obligations.RolloverLaws : Prop :=
  ∀ p a b : Int, InPeriod p a → InPeriod p b →
    InPeriod p (diffP p a b)
    ∧ diffP p a a = 0
    ∧ (a ≠ b → diffP p a b + diffP p b a = p)
    ∧ diffP p a b = (a - b) % p
    ∧ addwP p a b = (a + b) % p
    ∧ addwP p (diffP p a b) b = a

/-- R131, for every positive period: `addwP` makes one correction at most, and its result is in
`[0, p)` exactly when `-p <= a + b < 2p`. -/
def Obligations.AddwpMakesOneCorrection : Prop :=
  ∀ p a b : Int, 0 < p →
    addwP p a b = (if p ≤ a + b then a + b - p else if a + b < 0 then a + b + p else a + b)
    ∧ (InPeriod p (addwP p a b) ↔ -p ≤ a + b ∧ a + b < 2 * p)

/-- R133. `ADDW` is word 0x11. Where the exact sum fits 64 bits signed, the once-corrected sum fits
too and is the result, with `OK`, in `[0, P)` or not; where it does not fit, only `LAST` and
`F_OVERFLOW` change. -/
def Obligations.AddwCorrectsOnceOrOverflows : Prop :=
  decode 0x0000000000000011#64 = .ok .addw
  ∧ ∀ s : State, Config.Admitted s.period →
      (-2 ^ 63 ≤ sint s.a + sint s.b ∧ sint s.a + sint s.b < 2 ^ 63 → ∃ v : Word,
        sint v = (if s.period ≤ sint s.a + sint s.b then sint s.a + sint s.b - s.period
          else if sint s.a + sint s.b < 0 then sint s.a + sint s.b + s.period
          else sint s.a + sint s.b)
        ∧ exec .addw s = .next { s with res := v, status := { s.status with last := .ok } })
      ∧ (¬ (-2 ^ 63 ≤ sint s.a + sint s.b ∧ sint s.a + sint s.b < 2 ^ 63) → exec .addw s =
          .next { s with status := { s.status with last := .overflow, fOverflow := true } })

/-- R134. `TCORR` is word 0x12. With `A` in `[0, P)` and `TOF` in `[0, P)`, as R43 has it, `RES` takes
`A - TOF`, wrapped forward by `P` if negative, a value in `[0, P)`; with `A` outside only `LAST` and
`F_OPERAND` change, whatever `TOF` holds. -/
def Obligations.TcorrSubtractsTimeOfFlight : Prop :=
  decode 0x0000000000000012#64 = .ok .tcorr
  ∧ ∀ s : State, Config.Admitted s.period →
      (InPeriod s.period (sint s.a) → InPeriod s.period (sint s.tof) → ∃ v : Word,
        sint v = (if sint s.a < sint s.tof then sint s.a - sint s.tof + s.period
          else sint s.a - sint s.tof)
        ∧ InPeriod s.period (sint v)
        ∧ exec .tcorr s = .next { s with res := v, status := { s.status with last := .ok } })
      ∧ (¬ InPeriod s.period (sint s.a) → exec .tcorr s =
          .next { s with status := { s.status with last := .operand, fOperand := true } })

/-! ## Synchronization Model -/

/-- R153 (with R152, R154, R190). `SUPD` is word 0x20. An operand outside `[0, P)` changes only
`STATUS`, in every state and before any look at the interval. With `N = 0` the sample is stored and
`N` is 1. With `N >= 1` and the stored sample in `[0, P)`: the same reception time as the stored one
is `DIVZERO` and changes only `STATUS`; another one stores the ratio, taken from the old sample, and
the new sample, and `N` counts up and saturates. -/
def Obligations.SupdUpdatesModel : Prop :=
  decode 0x0000000000000020#64 = .ok .supd
  ∧ ∀ s : State, Config.Admitted s.period →
      (¬ (InPeriod s.period (sint s.a) ∧ InPeriod s.period (sint s.b)) → exec .supd s =
        .next { s with status := { s.status with last := .operand, fOperand := true } })
      ∧ (InPeriod s.period (sint s.a) → InPeriod s.period (sint s.b) → s.n.toNat = 0 →
        exec .supd s = .next { s with
          ts := s.a, tm := s.b, n := 1#32, status := { s.status with last := .ok } })
      ∧ (InPeriod s.period (sint s.a) → InPeriod s.period (sint s.b) → 1 ≤ s.n.toNat →
        InPeriod s.period (sint s.ts) → InPeriod s.period (sint s.tm) →
          (sint s.a = sint s.ts → exec .supd s =
            .next { s with status := { s.status with last := .divzero, fDivzero := true } })
          ∧ (sint s.a ≠ sint s.ts → ∃ num den : Word,
            sint num = (if sint s.b < sint s.tm then sint s.b - sint s.tm + s.period
              else sint s.b - sint s.tm)
            ∧ sint den = (if sint s.a < sint s.ts then sint s.a - sint s.ts + s.period
              else sint s.a - sint s.ts)
            ∧ exec .supd s = .next { s with
                rnum := num, rden := den, ts := s.a, tm := s.b
                n := BitVec.ofNat 32 (min (s.n.toNat + 1) (2 ^ 32 - 1))
                status := { s.status with last := .ok } }))

/-- R157 (with R156, R190). `PROJ` is word 0x21. With `N < 2` it is `DROPPED`, whatever `A` holds, and
changes only `LAST`. With `N >= 2`, an operand outside `[0, P)` changes only `LAST` and `F_OPERAND`;
otherwise, in a state that keeps R43, with `delta` the modular interval from `TS` and the sum
`floor(RNUM * delta / RDEN) + TM`: below `P` it is the result, below `2P` it is less `P`, and else
only `LAST` and `F_RANGE` change. A delivered result is in `[0, P)`. -/
def Obligations.ProjProjectsOrDrops : Prop :=
  decode 0x0000000000000021#64 = .ok .proj
  ∧ ∀ s : State,
      (s.n.toNat < 2 → exec .proj s = .next { s with status := { s.status with last := .dropped } })
      ∧ (2 ≤ s.n.toNat → ¬ InPeriod s.period (sint s.a) → exec .proj s =
        .next { s with status := { s.status with last := .operand, fOperand := true } })
      ∧ (2 ≤ s.n.toNat → s.RegsInv → InPeriod s.period (sint s.a) →
        ∀ delta sum : Int,
          delta = (if sint s.a < sint s.ts then sint s.a - sint s.ts + s.period
            else sint s.a - sint s.ts) →
          sum = ⌊((sint s.rnum : ℚ) * (delta : ℚ)) / (sint s.rden : ℚ)⌋ + sint s.tm →
          (sum < 2 * s.period → ∃ v : Word,
            sint v = (if sum < s.period then sum else sum - s.period)
            ∧ InPeriod s.period (sint v)
            ∧ exec .proj s = .next { s with res := v, status := { s.status with last := .ok } })
          ∧ (2 * s.period ≤ sum → exec .proj s =
            .next { s with status := { s.status with last := .range, fRange := true } }))

/-- R158. `REFEV` is word 0x22. With `TOF` in `[0, P)`, `r` the nanoseconds of `A[39:0]` and `m` those of
the field `B[31:0]` less `TOF`, wrapped forward: with `N = 0` the sample `(r, m)` is stored; with
`N >= 1` and the stored sample in `[0, P)` the update is that of R152, or `DIVZERO`. -/
def Obligations.RefevFeedsModel : Prop :=
  decode 0x0000000000000022#64 = .ok .refev
  ∧ ∀ (s : State) (r tx m : Int), Config.Admitted s.period → InPeriod s.period (sint s.tof) →
      r = (s.a.toNat % 2 ^ 40 * 625 / 39936 : Nat) →
      tx = (s.b.toNat % 2 ^ 32 * 256 * 625 / 39936 : Nat) →
      m = (if tx < sint s.tof then tx - sint s.tof + s.period else tx - sint s.tof) →
      (s.n.toNat = 0 → ∃ r' m' : Word, sint r' = r ∧ sint m' = m
        ∧ exec .refev s = .next { s with
            ts := r', tm := m', n := 1#32, status := { s.status with last := .ok } })
      ∧ (1 ≤ s.n.toNat → InPeriod s.period (sint s.ts) → InPeriod s.period (sint s.tm) →
          (r = sint s.ts → exec .refev s =
            .next { s with status := { s.status with last := .divzero, fDivzero := true } })
          ∧ (r ≠ sint s.ts → ∃ r' m' num den : Word, sint r' = r ∧ sint m' = m
            ∧ sint num = (if m < sint s.tm then m - sint s.tm + s.period else m - sint s.tm)
            ∧ sint den = (if r < sint s.ts then r - sint s.ts + s.period else r - sint s.ts)
            ∧ exec .refev s = .next { s with
                rnum := num, rden := den, ts := r', tm := m'
                n := BitVec.ofNat 32 (min (s.n.toNat + 1) (2 ^ 32 - 1))
                status := { s.status with last := .ok } }))

/-- R159. `PEEREV` is word 0x23. With `N < 2` it is `DROPPED`. With `N >= 2`, in a state that keeps R43,
it projects the nanoseconds of `A[39:0]` as R156 says: a result in `[0, P)` with `OK`, or `RANGE`. -/
def Obligations.PeerevProjectsOrDrops : Prop :=
  decode 0x0000000000000023#64 = .ok .peerev
  ∧ ∀ s : State,
      (s.n.toNat < 2 → exec .peerev s = .next { s with status := { s.status with last := .dropped } })
      ∧ (2 ≤ s.n.toNat → s.RegsInv →
        ∀ t delta sum : Int,
          t = (s.a.toNat % 2 ^ 40 * 625 / 39936 : Nat) →
          delta = (if t < sint s.ts then t - sint s.ts + s.period else t - sint s.ts) →
          sum = ⌊((sint s.rnum : ℚ) * (delta : ℚ)) / (sint s.rden : ℚ)⌋ + sint s.tm →
          (sum < 2 * s.period → ∃ v : Word,
            sint v = (if sum < s.period then sum else sum - s.period)
            ∧ InPeriod s.period (sint v)
            ∧ exec .peerev s = .next { s with res := v, status := { s.status with last := .ok } })
          ∧ (2 * s.period ≤ sum → exec .peerev s =
            .next { s with status := { s.status with last := .range, fRange := true } }))

/-- R158, last sentence of its completion codes: `REFEV` gives the same final state as `RXTS`, `TS2NS`,
`FLDTS`, `TS2NS`, `TCORR`, `SUPD` with the host moving `RES` into operands, except for `RES`, `A` and
`B`, in every state of an admitted period whose `TOF` is in `[0, P)`. -/
def Obligations.RefevEqualsItsSequence : Prop :=
  ∀ s : State, Config.Admitted s.period → InPeriod s.period (sint s.tof) →
    ∃ s1 s2 s3 s4 s5 u t,
      exec .rxts s = .next s1
      ∧ exec .ts2ns { s1 with a := s1.res } = .next s2
      ∧ exec .fldts { s2 with a := s.b } = .next s3
      ∧ exec .ts2ns { s3 with a := s3.res } = .next s4
      ∧ exec .tcorr { s4 with a := s4.res } = .next s5
      ∧ exec .supd { s5 with a := s2.res, b := s5.res } = .next u
      ∧ exec .refev s = .next t
      ∧ u = { t with a := u.a, b := u.b, res := u.res }

/-- R159 with R157: `PEEREV` gives the same final state as `RXTS`, `TS2NS`, `PROJ` with the host moving
`RES` into `A`, except for `A` and for the `RES` of a command that did not end with `OK`, in every
state of an admitted period. -/
def Obligations.PeerevEqualsItsSequence : Prop :=
  ∀ s : State, Config.Admitted s.period → ∃ s1 s2 u t,
    exec .rxts s = .next s1
    ∧ exec .ts2ns { s1 with a := s1.res } = .next s2
    ∧ exec .proj { s2 with a := s2.res } = .next u
    ∧ exec .peerev s = .next t
    ∧ u = { t with a := u.a, res := u.res }
    ∧ (t.status.last = .ok → u.res = t.res)

/-- R161. From `N = 0`, two `SUPD` of observations `(r1, m1)`, `(r2, m2)` in `[0, P)` with `r1 < r2` both
end with `OK` and leave the exact differences: `RDEN = r2 - r1`, and `RNUM = m2 - m1` when
`m1 <= m2`, else `m2 - m1 + P`. -/
def Obligations.RatioIsExact : Prop :=
  ∀ (s : State) (r1 m1 r2 m2 : Word), Config.Admitted s.period → s.n.toNat = 0 →
    InPeriod s.period (sint r1) → InPeriod s.period (sint m1) →
    InPeriod s.period (sint r2) → InPeriod s.period (sint m2) → sint r1 < sint r2 →
    ∃ s1 s2, exec .supd { s with a := r1, b := m1 } = .next s1
      ∧ exec .supd { s1 with a := r2, b := m2 } = .next s2
      ∧ s1.status.last = .ok ∧ s2.status.last = .ok ∧ s2.n = 2#32
      ∧ sint s2.rden = sint r2 - sint r1
      ∧ sint s2.rnum = (if sint m1 ≤ sint m2 then sint m2 - sint m1
          else sint m2 - sint m1 + s.period)

/-- R162. In a state that keeps R43, with `N >= 2` and `A` in `[0, P)`: `PROJ` ends with `RANGE` exactly
when `floor(RNUM * delta / RDEN) + TM >= 2P`, and never when `RNUM <= RDEN`. -/
def Obligations.RangeRaisedExactlyWhenSumTooLarge : Prop :=
  ∀ (s : State) (delta : Int), s.RegsInv → 2 ≤ s.n.toNat → InPeriod s.period (sint s.a) →
    delta = (if sint s.a < sint s.ts then sint s.a - sint s.ts + s.period
      else sint s.a - sint s.ts) →
    ∃ t, exec .proj s = .next t
      ∧ (t.status.last = .range ↔
          2 * s.period ≤ ⌊((sint s.rnum : ℚ) * (delta : ℚ)) / (sint s.rden : ℚ)⌋ + sint s.tm)
      ∧ (sint s.rnum ≤ sint s.rden → t.status.last ≠ .range)

/-- R157, corner cases. In a state that keeps R43 with `N >= 2`: `PROJ` at `A = TS` returns exactly `TM`;
and with `RNUM = 0` it returns `TM` for every `A` in `[0, P)`. -/
def Obligations.ProjectionAtSampleReturnsTm : Prop :=
  ∀ s : State, s.RegsInv → 2 ≤ s.n.toNat →
    (s.a = s.ts ∨ s.rnum = 0#64 ∧ InPeriod s.period (sint s.a)) →
    exec .proj s = .next { s with res := s.tm, status := { s.status with last := .ok } }

/-- R33, R39, R155. A command moves `N` exactly when it is a `SUPD` or `REFEV` that ended with `OK`, and
then by one, saturating at `2^32 - 1`; and no step of the machine other than the release of reset
makes `N` smaller. -/
def Obligations.CounterCountsStoredObservations : Prop :=
  (∀ (i : Instr) (s s' : State), exec i s = .next s' →
    s'.n.toNat = if (i = .supd ∨ i = .refev) ∧ s'.status.last = .ok
      then min (s.n.toNat + 1) (2 ^ 32 - 1) else s.n.toNat)
  ∧ ∀ s s' : State, step s = .next s' → s.pending.head? ≠ some (.rst false) →
      s.n.toNat ≤ s'.n.toNat

/-! ## Completion codes and STATUS -/

/-- R181. `complete(code)` writes `LAST`, sets the sticky flag of a fault code, clears none, changes
nothing else, and the block goes on. -/
def Obligations.CompleteRecordsCode : Prop :=
  ∀ s : State,
    complete .ok s = .next { s with status := { s.status with last := .ok } }
    ∧ complete .dropped s = .next { s with status := { s.status with last := .dropped } }
    ∧ complete .illegal s =
        .next { s with status := { s.status with last := .illegal, fIllegal := true } }
    ∧ complete .operand s =
        .next { s with status := { s.status with last := .operand, fOperand := true } }
    ∧ complete .overflow s =
        .next { s with status := { s.status with last := .overflow, fOverflow := true } }
    ∧ complete .divzero s =
        .next { s with status := { s.status with last := .divzero, fDivzero := true } }
    ∧ complete .range s =
        .next { s with status := { s.status with last := .range, fRange := true } }

/-- R191. A command word that ends with a fault code or with `DROPPED` changes nothing but `STATUS`. -/
def Obligations.FaultsChangeOnlyStatus : Prop :=
  ∀ (w : Word) (s s' : State), runCommand w s = .next s' → s'.status.last ≠ .ok →
    s' = { s with status := s'.status }

/-- R180, column "raised by". Every command word ends with a completion code; `ILLEGAL` comes from the
decoder alone, and each other code only from the commands R180 lists. -/
def Obligations.CodesComeFromTheirCommands : Prop :=
  ∀ (w : Word) (s : State), ∃ s', runCommand w s = .next s'
    ∧ (s'.status.last = .illegal ↔ ∀ i, decode w ≠ .ok i)
    ∧ (s'.status.last = .dropped → decode w = .ok .proj ∨ decode w = .ok .peerev)
    ∧ (s'.status.last = .operand → decode w = .ok .ts2ns ∨ decode w = .ok .diff
        ∨ decode w = .ok .tcorr ∨ decode w = .ok .supd ∨ decode w = .ok .proj)
    ∧ (s'.status.last = .overflow → decode w = .ok .addw)
    ∧ (s'.status.last = .divzero → decode w = .ok .supd ∨ decode w = .ok .refev)
    ∧ (s'.status.last = .range → decode w = .ok .proj ∨ decode w = .ok .peerev)

/-- R28. No step other than the release of reset clears a sticky flag, and no command reads one: the
same command word, legal or not, on other flags does the same and leaves those flags, plus what it
sets. -/
def Obligations.StickyFlagsOnlyResetClears : Prop :=
  (∀ s s' : State, step s = .next s' → s.pending.head? ≠ some (.rst false) →
    (s.status.fIllegal = true → s'.status.fIllegal = true)
    ∧ (s.status.fOperand = true → s'.status.fOperand = true)
    ∧ (s.status.fOverflow = true → s'.status.fOverflow = true)
    ∧ (s.status.fDivzero = true → s'.status.fDivzero = true)
    ∧ (s.status.fRange = true → s'.status.fRange = true))
  ∧ ∀ (w : Word) (s s' : State) (st : Status), runCommand w s = .next s' →
      runCommand w { s with status := st } = .next { s' with status := st.record s'.status.last }

/-- R26, R29, R30. What a read of `STATUS` assembles: the code's number, the five sticky flags,
`min(N, 2)`, and 0 in every reserved bit. -/
def Obligations.StatusWordHasItsFields : Prop :=
  ∀ (st : Status) (n : BitVec 32),
    (statusWord st n).extractLsb' 0 4 = (match st.last with
      | .ok => 0#4 | .dropped => 1#4 | .illegal => 2#4 | .operand => 3#4 | .overflow => 4#4
      | .divzero => 5#4 | .range => 6#4)
    ∧ (statusWord st n).getLsbD 8 = st.fIllegal
    ∧ (statusWord st n).getLsbD 9 = st.fOperand
    ∧ (statusWord st n).getLsbD 10 = st.fOverflow
    ∧ (statusWord st n).getLsbD 11 = st.fDivzero
    ∧ (statusWord st n).getLsbD 12 = st.fRange
    ∧ ((statusWord st n).extractLsb' 16 2).toNat = min n.toNat 2
    ∧ (statusWord st n).extractLsb' 4 4 = 0#4
    ∧ (statusWord st n).extractLsb' 13 3 = 0#3
    ∧ (statusWord st n).extractLsb' 18 46 = 0#46

/-- R20 to R23, R32, column "written by commands": no command writes `A`, `B`, `TOF` or `P`, the
response, the host or its frame buffer (R60: the block has no access to it); and `RES` changes only where a
value-producing command ended with `OK`. -/
def Obligations.CommandsLeaveOperandsAndBuffer : Prop :=
  ∀ (i : Instr) (s s' : State), exec i s = .next s' →
    s'.period = s.period ∧ s'.a = s.a ∧ s'.b = s.b ∧ s'.tof = s.tof ∧ s'.rsp = s.rsp
    ∧ s'.inReset = s.inReset
    ∧ s'.freeReads = s.freeReads ∧ s'.pending = s.pending ∧ s'.host = s.host
    ∧ (∀ addr, s'.host.buffer.read addr = s.host.buffer.read addr)
    ∧ (s'.status.last ≠ .ok ∨ i = .supd ∨ i = .refev → s'.res = s.res)

/-! ## Encoding -/

/-- R90 to R92, R94. Over every 64-bit word: the decoder answers a command exactly on that command's
word, so every bit of the word counts and every other word is refused; and the eight byte lanes of a
word decode as the word does (R68). -/
def Obligations.DecodeAnswersExactlyEncodedWords : Prop :=
  (∀ (w : Word) (i : Instr), decode w = .ok i ↔ w = encode i)
  ∧ (∀ w : Word, decodeBytes (lanes w) = decode w)
  ∧ ∀ i : Instr, i.wf = true ∧ decodeBytes (encodeBytes i) = .ok i

/-- R91, R92. A few words of the table decode to their commands, and the words R94 and P4 name decode
to none, each for its reason. -/
def Obligations.SampleWordsDecode : Prop :=
  decode 0b0000000000000000000000000000000000000000000000000000000000000001#64 = .ok .rxts
  ∧ decode 0b0000000000000000000000000000000000000000000000000000000000010001#64 = .ok .addw
  ∧ decode 0b0000000000000000000000000000000000000000000000000000000000100010#64 = .ok .refev
  ∧ decode 0x0000000000000000#64 = .error .noSuchOpcode
  ∧ decode 0x000000000000007F#64 = .error .noSuchOpcode
  ∧ decode 0x0000000100000001#64 = .error .zeroField

/-- R182 (and R94). A write to `CMD` of any word but the ten of R92 gets the response `ok`, completes
with `ILLEGAL`, and changes no register but `STATUS`. -/
def Obligations.IllegalWordsChangeOnlyStatus : Prop :=
  ∀ (s : State) (w : Word) (rest : List Event), s.inReset = false →
    s.pending = .txn (.write 0x18#8 8#4 w) :: rest →
    w ∉ [0x01#64, 0x02#64, 0x03#64, 0x10#64, 0x11#64, 0x12#64, 0x20#64, 0x21#64, 0x22#64, 0x23#64] →
    step s = .next { s with
      status := { s.status with last := .illegal, fIllegal := true }
      rsp := some .ok
      pending := rest }

/-- R25, R62, R91. When the next transaction writes to `CMD` a word that decodes to the command `i`, the
step runs `i` on the state without that transaction, and answers `ok` whatever its code. -/
def Obligations.StepRunsDecodedCommand : Prop :=
  ∀ (s : State) (w : Word) (i : Instr) (rest : List Event), s.inReset = false →
    s.pending = .txn (.write 0x18#8 8#4 w) :: rest → decode w = .ok i →
    ∃ t, exec i { s with pending := rest } = .next t
      ∧ step s = .next { t with rsp := some .ok }

/-! ## The register port -/

/-- R61. An aligned 8-byte read of a readable register whose value is specified returns that value, and
changes nothing else: offsets of R20, `STATUS` assembled, `P` the constant of the instance, `N` zero-extended. -/
def Obligations.ReadReturnsRegister : Prop :=
  ∀ (s : State) (rest : List Event), s.inReset = false →
    (∀ p ∈ [(0x00#8, s.a), (0x08#8, s.b), (0x10#8, s.res), (0x20#8, statusWord s.status s.n),
        (0x28#8, s.tof), (0x30#8, BitVec.ofInt 64 s.period), (0x38#8, BitVec.ofNat 64 s.n.toNat)],
      step { s with pending := .txn (.read p.1 8#4) :: rest } =
        .next { s with rsp := some (.data p.2), pending := rest })
    ∧ (1 ≤ s.n.toNat → ∀ p ∈ [(0x40#8, s.ts), (0x48#8, s.tm)],
      step { s with pending := .txn (.read p.1 8#4) :: rest } =
        .next { s with rsp := some (.data p.2), pending := rest })
    ∧ (2 ≤ s.n.toNat → ∀ p ∈ [(0x50#8, s.rnum), (0x58#8, s.rden)],
      step { s with pending := .txn (.read p.1 8#4) :: rest } =
        .next { s with rsp := some (.data p.2), pending := rest })

/-- R34 to R37, R232. A read of `TS` or `TM` while `N = 0`, or of `RNUM` or `RDEN` while `N < 2`, returns a
free value, the next one of the sequence, whatever the register holds. The form of the free value is
the model's (log 4). -/
def Obligations.UnspecifiedReadIsFree : Prop :=
  ∀ (s : State) (rest : List Event) (addr : BitVec 8), s.inReset = false →
    (s.n.toNat = 0 ∧ (addr = 0x40#8 ∨ addr = 0x48#8)
      ∨ s.n.toNat < 2 ∧ (addr = 0x50#8 ∨ addr = 0x58#8)) →
    step { s with pending := .txn (.read addr 8#4) :: rest } = .next { s with
      rsp := some (.data (Config.freeRead s.freeReads))
      freeReads := s.freeReads + 1
      pending := rest }

/-- R62. Every 64-bit value may be written to `A` and `B`; the write gets `ok` and changes nothing else. -/
def Obligations.OperandWritesAccepted : Prop :=
  ∀ (s : State) (rest : List Event) (v : Word), s.inReset = false →
    step { s with pending := .txn (.write 0x00#8 8#4 v) :: rest } =
      .next { s with a := v, rsp := some .ok, pending := rest }
    ∧ step { s with pending := .txn (.write 0x08#8 8#4 v) :: rest } =
      .next { s with b := v, rsp := some .ok, pending := rest }

/-- R66. A write of `TOF` stores a value in `[0, P)` and gets `ok`; any other gets `err` and `TOF` is
unchanged. Nothing else changes: stored model values are not recomputed (R235). -/
def Obligations.TofWriteChecksRange : Prop :=
  ∀ (s : State) (rest : List Event) (v : Word), s.inReset = false →
    (0 ≤ sint v ∧ sint v < s.period →
      step { s with pending := .txn (.write 0x28#8 8#4 v) :: rest } =
        .next { s with tof := v, rsp := some .ok, pending := rest })
    ∧ (¬ (0 ≤ sint v ∧ sint v < s.period) →
      step { s with pending := .txn (.write 0x28#8 8#4 v) :: rest } =
        .next { s with rsp := some .err, pending := rest })

/-- R63. The port errors, case by case, of reads and of writes: in each case the response is `err` and
nothing changes, not even `STATUS`; and in no other case is the response `err`. -/
def Obligations.PortErrorsAreExactlyListed : Prop :=
  ∀ (s : State) (rest : List Event) (addr : BitVec 8) (size : BitVec 4) (v : Word),
    s.inReset = false →
    (∃ t, step { s with pending := .txn (.read addr size) :: rest } = .next t
      ∧ (t.rsp = some .err ↔
          size ≠ 8#4 ∨ addr.toNat % 8 ≠ 0 ∨ 0x60 ≤ addr.toNat ∨ addr = 0x18#8)
      ∧ (t.rsp = some .err → t = { s with rsp := some .err, pending := rest }))
    ∧ ∃ t, step { s with pending := .txn (.write addr size v) :: rest } = .next t
      ∧ (t.rsp = some .err ↔
          size ≠ 8#4 ∨ addr.toNat % 8 ≠ 0 ∨ 0x60 ≤ addr.toNat
          ∨ addr ∈ [0x10#8, 0x20#8, 0x30#8, 0x38#8, 0x40#8, 0x48#8, 0x50#8, 0x58#8]
          ∨ addr = 0x28#8 ∧ ¬ (0 ≤ sint v ∧ sint v < s.period))
      ∧ (t.rsp = some .err → t = { s with rsp := some .err, pending := rest })

/-- R67. A read, whatever its offset and size, changes no register of the block and nothing of the
host; only the response, the count of free reads and the list of events move. -/
def Obligations.ReadsHaveNoSideEffect : Prop :=
  ∀ (s : State) (rest : List Event) (addr : BitVec 8) (size : BitVec 4), s.inReset = false →
    ∃ t, step { s with pending := .txn (.read addr size) :: rest } = .next t
      ∧ t = { s with rsp := t.rsp, freeReads := t.freeReads, pending := rest }

/-- R245, its liveness statement: every transaction issued outside reset completes, with a response. -/
def Obligations.EveryTransactionCompletes : Prop :=
  ∀ (s : State) (rest : List Event) (t : Txn), s.inReset = false →
    ∃ s', step { s with pending := .txn t :: rest } = .next s' ∧ s'.rsp.isSome = true
      ∧ s'.pending = rest

/-- R20, R75. Each register has its own offset, and a transaction of 8 bytes at that offset addresses
that register; the offsets that address none are those that are unmapped or no multiple of 8. -/
def Obligations.AddressMapIsOneToOne : Prop :=
  ∀ (r : Reg) (addr : BitVec 8), (portReg addr 8#4 = some r ↔ addr = r.offset)
    ∧ (portReg addr 8#4 = none ↔ addr.toNat % 8 ≠ 0 ∨ 0x60 ≤ addr.toNat)
    ∧ (Txn.read addr 8#4).wf = (portReg addr 8#4).isSome

/-! ## Reset -/

/-- R230. `rst` asserted and then released puts every register of the block at its reset value, from
every state: a read of `STATUS` is 0 and `N` is 0; `P` is the constant it was. That the host, the events and the count of free
reads stay is the model's choice (log 5). -/
def Obligations.ResetRestoresRegisters : Prop :=
  ∀ (s : State) (rest : List Event), s.pending = .rst true :: .rst false :: rest →
    ∃ s1 s2, step s = .next s1 ∧ step s1 = .next s2
      ∧ s2.a = 0#64 ∧ s2.b = 0#64 ∧ s2.res = 0#64 ∧ s2.tof = 0#64 ∧ s2.n = 0#32
      ∧ statusWord s2.status s2.n = 0#64 ∧ s2.inReset = false ∧ s2.period = s.period
      ∧ s2.host = s.host ∧ s2.pending = rest ∧ s2.freeReads = s.freeReads

/-- R230, R231. The state right after reset: `A`, `B`, `RES`, `TOF`, `N` and `STATUS` are 0, so the state
machine is Uninitialized, and every fault flag is clear; `P` is 17207401026, this hardware's value,
which R9 admits. -/
def Obligations.ResetStateValues : Prop :=
  State.reset.a = 0#64 ∧ State.reset.b = 0#64 ∧ State.reset.res = 0#64 ∧ State.reset.tof = 0#64
  ∧ State.reset.n = 0#32 ∧ statusWord State.reset.status State.reset.n = 0#64
  ∧ State.reset.NoStickyFlag ∧ State.reset.inReset = false
  ∧ State.reset.period = 17207401026 ∧ Config.Admitted State.reset.period
  ∧ regValue State.reset .p = some 0x0000000401A41A42#64

/-- R9, R32, R44. The period is a constant of the instance: no command and no step, the release of
reset among them, changes it. That a state carries it is the model's form of the parameter (log 2). -/
def Obligations.PeriodIsConstant : Prop :=
  (∀ (i : Instr) (s s' : State), exec i s = .next s' → s'.period = s.period)
  ∧ ∀ s s' : State, step s = .next s' → s'.period = s.period

/-- R215 with 93_implementation_defined.md Part 2: a transaction while `rst` is asserted gets no step.
The refusal is the model's form of it (log 5). -/
def Obligations.TransactionDuringResetRefused : Prop :=
  ∀ (s : State) (rest : List Event) (t : Txn), s.inReset = true →
    step { s with pending := .txn t :: rest } = .refused .transactionDuringReset

/-! ## Whole machine -/

/-- R43 holds right after reset, with a period R9 admits. That the frame buffer is canonical and holds
every byte of its frame is the model's own part of the invariant (log 11), and that the host starts
with an empty buffer and no frame is the model's choice (log 14). -/
def Obligations.InvariantHoldsAtReset : Prop := State.reset.Inv

/-- R43. From every state that has the invariant, whatever the next event, a step that answers a next
state leaves one that has it: the period admitted, `TOF`, `TS`, `TM`, `RNUM` in `[0, P)` and `RDEN` in
`[1, P)` where `N` says so, `STATUS` with its reserved bits 0 and one of the seven codes. The clauses
on the frame buffer, canonical and holding every byte of its frame, are the model's own (log 11). -/
def Obligations.EveryStepKeepsInvariant : Prop :=
  ∀ s s' : State, s.Inv → step s = .next s' → s'.Inv

/-- R192, R215, R71. In a state that has the invariant no step faults, and a step is refused only for a
transaction while `rst` is asserted, or when the loop would read the timestamp field outside its
frame. The two refusals are the model's form of no step (logs 5, 11). -/
def Obligations.StepsNeverFault : Prop :=
  ∀ s : State, s.Inv →
    (∀ r, step s ≠ .fault r)
    ∧ ∀ r, step s = .refused r →
        r = .transactionDuringReset ∧ s.inReset = true
          ∧ (s.pending.head? = some .loop ∨ ∃ t, s.pending.head? = some (.txn t))
        ∨ r = .fieldOutOfBounds ∧ s.pending.head? = some .loop

/-- R232 (R34 to R37, R93). What stands in a register whose value is unspecified has no influence: from
two states that differ at most in such registers, every step ends alike, with the same response, and
in states that again differ at most in such registers. -/
def Obligations.UnspecifiedRegistersNeverInfluence : Prop :=
  ∀ s t : State, SameSpecified s t → SameOutcome (step s) (step t)

/-! ## The host agent -/

/-- R202 (R73, R211). Each callback sets exactly its own flag, and only timeout and error log; the
block is not touched (R65). What the driver holds, the frame's bytes and its timestamp, is the event's
own for a received frame, and as before for the other three; that an event carries them and replaces
what was held is the model's choice (log 15). -/
def Obligations.CallbackSetsOneFlag : Prop :=
  ∀ (s : State) (e : RadioEvent) (rest : List Event), s.pending = .radio e :: rest →
    step s = .next { s with
      pending := rest
      host := match e with
        | .received bs ts => { s.host with received := true, rxBytes := bs, rxTs := ts }
        | .timeout => { s.host with timeout := true, log := .timeout :: s.host.log }
        | .error => { s.host with error := true, log := .error :: s.host.log }
        | .transmitConfirmed => { s.host with transmitConfirmed := true } }

/-- R209 and S2. A timeout or an error with no frame received: the loop resets the driver's receive
state and clears both flags, and no register of the block changes. That it takes two turns, with these
phases, is the model's choice (log 13), and so is that the driver call is recorded (log 15). -/
def Obligations.TimeoutLeavesBlockAlone : Prop :=
  ∀ (cfg : HostConfig) (s : State), s.host.phase = .wait → s.host.received = false →
    s.host.timeout = true ∨ s.host.error = true →
    ∃ s1 s2, loopTurn cfg s = .next s1 ∧ loopTurn cfg s1 = .next s2
      ∧ s2 = { s with host := { s.host with
          timeout := false
          error := false
          driverCalls := .resetReceiveState :: s.host.driverCalls
          phase := .listen } }

/-- R207 and S8. A frame longer than the buffer's capacity: the loop only clears the received flag; no
transaction is issued, no register of the block, no byte of the buffer and no report changes. That it
takes one turn and goes on to step 4 of the same iteration is the model's choice (log 13). -/
def Obligations.OversizedFrameDropped : Prop :=
  ∀ (cfg : HostConfig) (s : State), s.host.phase = .wait → s.host.received = true →
    cfg.cap < s.host.rxBytes.length →
    loopTurn cfg s = .next { s with host := { s.host with received := false, phase := .afterFrame } }

/-- R70, R71. With the driver's frame in the buffer, `FBRead(off, 4)` of a field inside the frame is
`b0 + b1*2^8 + b2*2^16 + b3*2^24`; a field outside the frame's length is refused (R215). That the frame
stands in the buffer from offset 0 and that its length is the buffer length of R71 are the model's
reading (log 11). -/
def Obligations.FieldReadIsLittleEndian : Prop :=
  ∀ (h : HostAgent) (off : Nat),
    (∀ hoff : off + 4 ≤ h.rxBytes.length, ∃ v : BitVec 32, fbRead h.readFrame off = .next v
      ∧ v.toNat = (h.rxBytes[off]'(by omega)).toNat + (h.rxBytes[off + 1]'(by omega)).toNat * 2 ^ 8
          + (h.rxBytes[off + 2]'(by omega)).toNat * 2 ^ 16
          + (h.rxBytes[off + 3]'(by omega)).toNat * 2 ^ 24)
    ∧ (h.rxBytes.length < off + 4 → fbRead h.readFrame off = .refused .fieldOutOfBounds)

/-- R60(b). The frame buffer as a memory: a byte written is read back, every other address reads as
before; and the same of bytes written to consecutive addresses. -/
def Obligations.BufferReadsLastWrite : Prop :=
  (∀ (m : Memory) (a b : Nat) (v : Byte),
    (m.write a v).read b = if b = a then some v else m.read b)
  ∧ ∀ (m : Memory) (a b : Nat) (bs : List Byte),
    (m.fill a bs).read b = if a ≤ b ∧ b < a + bs.length then bs[b - a]? else m.read b

/-- R208 (R206, R71). Every frame that passes the length check is Reference or Peer, whatever its
length: its source identifier is the two bytes at the identifier's offset of the buffer's content.
`byte a` is that content: the frame's own byte inside the frame, and beyond it what stood in the buffer
before, or a free value where nothing ever did (logs 11, 19). For a Reference frame the loop goes on to
issue `ref rx, field`, unless the frame is too short for the timestamp field, which is refused (R71);
for a Peer frame it goes on to issue `peer rx` and to read `STATUS`. The loop's choice of transactions
is log 13. -/
def Obligations.EveryFrameIsReferenceOrPeer : Prop :=
  ∀ (cfg : HostConfig) (s : State) (byte : Nat → Byte),
    (∀ a, byte a =
      (s.host.rxBytes[a]?).getD ((s.host.buffer.read a).getD (Config.unwrittenByte a))) →
    s.host.phase = .wait → s.host.received = true → s.host.rxBytes.length ≤ cfg.cap →
    ((byte cfg.idOff, byte (cfg.idOff + 1)) = cfg.refId →
      (cfg.txtsOff + 4 ≤ s.host.rxBytes.length → ∃ field : Word,
        field.toNat = (byte cfg.txtsOff).toNat + (byte (cfg.txtsOff + 1)).toNat * 2 ^ 8
          + (byte (cfg.txtsOff + 2)).toNat * 2 ^ 16 + (byte (cfg.txtsOff + 3)).toNat * 2 ^ 24
        ∧ loopTurn cfg s = .next { s with host := { s.host with
            buffer := s.host.buffer.fill 0 s.host.rxBytes
            frameLen := s.host.rxBytes.length
            phase := .issue (.write 0x00#8 8#4 (BitVec.ofNat 64 s.host.rxTs.toNat))
              [.write 0x08#8 8#4 field, .write 0x18#8 8#4 0x22#64] .frameDone } })
      ∧ (s.host.rxBytes.length < cfg.txtsOff + 4 → loopTurn cfg s = .refused .fieldOutOfBounds))
    ∧ ((byte cfg.idOff, byte (cfg.idOff + 1)) ≠ cfg.refId →
      loopTurn cfg s = .next { s with host := { s.host with
        buffer := s.host.buffer.fill 0 s.host.rxBytes
        frameLen := s.host.rxBytes.length
        phase := .issue (.write 0x00#8 8#4 (BitVec.ofNat 64 s.host.rxTs.toNat))
          [.write 0x18#8 8#4 0x23#64, .read 0x20#8 8#4]
          (.testLast (byte cfg.idOff, byte (cfg.idOff + 1))) } })

/-- R205, R206, R208. A Reference frame that fits: the loop leaves in the block exactly what `wr A, rx`,
`wr B, field`, `cmd REFEV` leave, and in the host only the frame in the buffer and the received flag
cleared: a timeout or an error pending stays, and so do log, calls and reports. `byte` is the buffer's
content (logs 11, 19). That the loop uses `ref` and not the longer sequence R206 also allows, and takes
four turns, is the model's choice (log 13). -/
def Obligations.ReferenceFrameFeedsModel : Prop :=
  ∀ (cfg : HostConfig) (s : State) (byte : Nat → Byte),
    (∀ a, byte a =
      (s.host.rxBytes[a]?).getD ((s.host.buffer.read a).getD (Config.unwrittenByte a))) →
    s.inReset = false → s.host.phase = .wait → s.host.received = true →
    s.host.rxBytes.length ≤ cfg.cap → cfg.txtsOff + 4 ≤ s.host.rxBytes.length →
    (byte cfg.idOff, byte (cfg.idOff + 1)) = cfg.refId →
    ∃ (field : Word) (s1 s2 s3 s4 t : State),
      field.toNat = (byte cfg.txtsOff).toNat + (byte (cfg.txtsOff + 1)).toNat * 2 ^ 8
        + (byte (cfg.txtsOff + 2)).toNat * 2 ^ 16 + (byte (cfg.txtsOff + 3)).toNat * 2 ^ 24
      ∧ loopTurn cfg s = .next s1 ∧ loopTurn cfg s1 = .next s2
      ∧ loopTurn cfg s2 = .next s3 ∧ loopTurn cfg s3 = .next s4
      ∧ exec .refev { s with a := BitVec.ofNat 64 s.host.rxTs.toNat, b := field } = .next t
      ∧ s4 = { t with
          rsp := some .ok
          host := { s.host with
            buffer := s.host.buffer.fill 0 s.host.rxBytes
            frameLen := s.host.rxBytes.length
            received := false
            phase := .afterFrame } }

/-- R205, R206, R214, R160. A Peer frame that fits, and whose `PEEREV` ends with `OK`: the loop tests
`LAST`, reads `RES` and `N`, and emits one report with the projected time, the count, the frame's
sequence number and its source identifier; else it leaves in the host only the frame in the buffer and
the received flag cleared. `byte` is the buffer's content (logs 11, 19). The six turns and the reads of
`STATUS`, `RES`, `N` are the model's choice (log 13), and so are the sequence number's length and the
two-byte identifier (log 12) and bytes as the report's fields (log 16). -/
def Obligations.PeerFrameIsReported : Prop :=
  ∀ (cfg : HostConfig) (s t : State) (byte : Nat → Byte),
    (∀ a, byte a =
      (s.host.rxBytes[a]?).getD ((s.host.buffer.read a).getD (Config.unwrittenByte a))) →
    s.inReset = false → s.host.phase = .wait → s.host.received = true →
    s.host.rxBytes.length ≤ cfg.cap → (byte cfg.idOff, byte (cfg.idOff + 1)) ≠ cfg.refId →
    exec .peerev { s with a := BitVec.ofNat 64 s.host.rxTs.toNat } = .next t → t.status.last = .ok →
    ∃ s1 s2 s3 s4 s5 s6 : State,
      loopTurn cfg s = .next s1 ∧ loopTurn cfg s1 = .next s2 ∧ loopTurn cfg s2 = .next s3
      ∧ loopTurn cfg s3 = .next s4 ∧ loopTurn cfg s4 = .next s5 ∧ loopTurn cfg s5 = .next s6
      ∧ s6 = { t with
          rsp := some (.data (BitVec.ofNat 64 t.n.toNat))
          host := { s.host with
            buffer := s.host.buffer.fill 0 s.host.rxBytes
            frameLen := s.host.rxBytes.length
            reports :=
              { sequenceNumber := (List.range cfg.seqLen).map fun k => byte (cfg.seqOff + k)
                synchronizedTimeNs := sint t.res
                referenceFrameCount := t.n.toNat
                peerIdentifier := (byte cfg.idOff, byte (cfg.idOff + 1)) } :: s.host.reports
            received := false
            phase := .afterFrame } }

/-- R205, R206, R187, R186. A Peer frame that fits, and whose `PEEREV` does not end with `OK`: the frame
is done with no report, and in the host only the frame in the buffer and the received flag cleared are
left. `byte` is the buffer's content (logs 11, 19). The four turns and the read of `STATUS` before the
test are the model's choice (log 13). -/
def Obligations.DroppedPeerFrameIsNotReported : Prop :=
  ∀ (cfg : HostConfig) (s t : State) (byte : Nat → Byte),
    (∀ a, byte a =
      (s.host.rxBytes[a]?).getD ((s.host.buffer.read a).getD (Config.unwrittenByte a))) →
    s.inReset = false → s.host.phase = .wait → s.host.received = true →
    s.host.rxBytes.length ≤ cfg.cap → (byte cfg.idOff, byte (cfg.idOff + 1)) ≠ cfg.refId →
    exec .peerev { s with a := BitVec.ofNat 64 s.host.rxTs.toNat } = .next t → t.status.last ≠ .ok →
    ∃ s1 s2 s3 s4 : State,
      loopTurn cfg s = .next s1 ∧ loopTurn cfg s1 = .next s2 ∧ loopTurn cfg s2 = .next s3
      ∧ loopTurn cfg s3 = .next s4
      ∧ s4 = { t with
          rsp := some (.data (statusWord t.status t.n))
          host := { s.host with
            buffer := s.host.buffer.fill 0 s.host.rxBytes
            frameLen := s.host.rxBytes.length
            received := false
            phase := .afterFrame } }

/-- R96, R97. What each statement and pseudo-statement of a script stands for. That `reset` is `rst`
asserted and released is the model's form of the reset event (log 5); that a value outside the range of
a well-formed statement, or `op1` and `op2` on any command, expands in the same way is the model's
choice (log 18). -/
def Obligations.ScriptStatementsExpand : Prop :=
  ∀ (i : Instr) (r : Reg) (x y : Int),
    expand (.wr r x) = [.txn (.write r.offset 8#4 (BitVec.ofInt 64 x))]
    ∧ expand (.rd r) = [.txn (.read r.offset 8#4)]
    ∧ expand (.cmd i) = [.txn (.write 0x18#8 8#4 (encode i))]
    ∧ expand .reset = [.rst true, .rst false]
    ∧ expand (.op1 i x) = expand (.wr .a x) ++ expand (.cmd i)
    ∧ expand (.op2 i x y) = expand (.wr .a x) ++ expand (.wr .b y) ++ expand (.cmd i)
    ∧ expand (.settof x) = expand (.wr .tof x)
    ∧ expand (.ref x y) = expand (.wr .a x) ++ expand (.wr .b y) ++ expand (.cmd .refev)
    ∧ expand (.peer x) = expand (.wr .a x) ++ expand (.cmd .peerev)
end

