-- ==== Sys2Proof/Laws/State.lean ====
section
/-! SUPPORT. What each update of the state leaves in each field, by `rfl`, so that no proof unfolds a
record update; and the fields of `STATUS` after `complete`. -/

namespace Sys2Proof.Machine

variable (s : State)

/-! `setRes` -/
@[simp] theorem State.setRes_period (v : Word) : (s.setRes v).period = s.period := rfl
@[simp] theorem State.setRes_a (v : Word) : (s.setRes v).a = s.a := rfl
@[simp] theorem State.setRes_b (v : Word) : (s.setRes v).b = s.b := rfl
@[simp] theorem State.setRes_res (v : Word) : (s.setRes v).res = v := rfl
@[simp] theorem State.setRes_status (v : Word) : (s.setRes v).status = s.status := rfl
@[simp] theorem State.setRes_tof (v : Word) : (s.setRes v).tof = s.tof := rfl
@[simp] theorem State.setRes_n (v : Word) : (s.setRes v).n = s.n := rfl
@[simp] theorem State.setRes_ts (v : Word) : (s.setRes v).ts = s.ts := rfl
@[simp] theorem State.setRes_tm (v : Word) : (s.setRes v).tm = s.tm := rfl
@[simp] theorem State.setRes_rnum (v : Word) : (s.setRes v).rnum = s.rnum := rfl
@[simp] theorem State.setRes_rden (v : Word) : (s.setRes v).rden = s.rden := rfl
@[simp] theorem State.setRes_freeReads (v : Word) : (s.setRes v).freeReads = s.freeReads := rfl
@[simp] theorem State.setRes_inReset (v : Word) : (s.setRes v).inReset = s.inReset := rfl
@[simp] theorem State.setRes_rsp (v : Word) : (s.setRes v).rsp = s.rsp := rfl
@[simp] theorem State.setRes_host (v : Word) : (s.setRes v).host = s.host := rfl
@[simp] theorem State.setRes_pending (v : Word) : (s.setRes v).pending = s.pending := rfl

/-! `setA` -/
@[simp] theorem State.setA_period (v : Word) : (s.setA v).period = s.period := rfl
@[simp] theorem State.setA_a (v : Word) : (s.setA v).a = v := rfl
@[simp] theorem State.setA_b (v : Word) : (s.setA v).b = s.b := rfl
@[simp] theorem State.setA_res (v : Word) : (s.setA v).res = s.res := rfl
@[simp] theorem State.setA_status (v : Word) : (s.setA v).status = s.status := rfl
@[simp] theorem State.setA_tof (v : Word) : (s.setA v).tof = s.tof := rfl
@[simp] theorem State.setA_n (v : Word) : (s.setA v).n = s.n := rfl
@[simp] theorem State.setA_ts (v : Word) : (s.setA v).ts = s.ts := rfl
@[simp] theorem State.setA_tm (v : Word) : (s.setA v).tm = s.tm := rfl
@[simp] theorem State.setA_rnum (v : Word) : (s.setA v).rnum = s.rnum := rfl
@[simp] theorem State.setA_rden (v : Word) : (s.setA v).rden = s.rden := rfl
@[simp] theorem State.setA_freeReads (v : Word) : (s.setA v).freeReads = s.freeReads := rfl
@[simp] theorem State.setA_inReset (v : Word) : (s.setA v).inReset = s.inReset := rfl
@[simp] theorem State.setA_rsp (v : Word) : (s.setA v).rsp = s.rsp := rfl
@[simp] theorem State.setA_host (v : Word) : (s.setA v).host = s.host := rfl
@[simp] theorem State.setA_pending (v : Word) : (s.setA v).pending = s.pending := rfl

/-! `setB` -/
@[simp] theorem State.setB_period (v : Word) : (s.setB v).period = s.period := rfl
@[simp] theorem State.setB_a (v : Word) : (s.setB v).a = s.a := rfl
@[simp] theorem State.setB_b (v : Word) : (s.setB v).b = v := rfl
@[simp] theorem State.setB_res (v : Word) : (s.setB v).res = s.res := rfl
@[simp] theorem State.setB_status (v : Word) : (s.setB v).status = s.status := rfl
@[simp] theorem State.setB_tof (v : Word) : (s.setB v).tof = s.tof := rfl
@[simp] theorem State.setB_n (v : Word) : (s.setB v).n = s.n := rfl
@[simp] theorem State.setB_ts (v : Word) : (s.setB v).ts = s.ts := rfl
@[simp] theorem State.setB_tm (v : Word) : (s.setB v).tm = s.tm := rfl
@[simp] theorem State.setB_rnum (v : Word) : (s.setB v).rnum = s.rnum := rfl
@[simp] theorem State.setB_rden (v : Word) : (s.setB v).rden = s.rden := rfl
@[simp] theorem State.setB_freeReads (v : Word) : (s.setB v).freeReads = s.freeReads := rfl
@[simp] theorem State.setB_inReset (v : Word) : (s.setB v).inReset = s.inReset := rfl
@[simp] theorem State.setB_rsp (v : Word) : (s.setB v).rsp = s.rsp := rfl
@[simp] theorem State.setB_host (v : Word) : (s.setB v).host = s.host := rfl
@[simp] theorem State.setB_pending (v : Word) : (s.setB v).pending = s.pending := rfl

/-! `setTof` -/
@[simp] theorem State.setTof_period (v : Word) : (s.setTof v).period = s.period := rfl
@[simp] theorem State.setTof_a (v : Word) : (s.setTof v).a = s.a := rfl
@[simp] theorem State.setTof_b (v : Word) : (s.setTof v).b = s.b := rfl
@[simp] theorem State.setTof_res (v : Word) : (s.setTof v).res = s.res := rfl
@[simp] theorem State.setTof_status (v : Word) : (s.setTof v).status = s.status := rfl
@[simp] theorem State.setTof_tof (v : Word) : (s.setTof v).tof = v := rfl
@[simp] theorem State.setTof_n (v : Word) : (s.setTof v).n = s.n := rfl
@[simp] theorem State.setTof_ts (v : Word) : (s.setTof v).ts = s.ts := rfl
@[simp] theorem State.setTof_tm (v : Word) : (s.setTof v).tm = s.tm := rfl
@[simp] theorem State.setTof_rnum (v : Word) : (s.setTof v).rnum = s.rnum := rfl
@[simp] theorem State.setTof_rden (v : Word) : (s.setTof v).rden = s.rden := rfl
@[simp] theorem State.setTof_freeReads (v : Word) : (s.setTof v).freeReads = s.freeReads := rfl
@[simp] theorem State.setTof_inReset (v : Word) : (s.setTof v).inReset = s.inReset := rfl
@[simp] theorem State.setTof_rsp (v : Word) : (s.setTof v).rsp = s.rsp := rfl
@[simp] theorem State.setTof_host (v : Word) : (s.setTof v).host = s.host := rfl
@[simp] theorem State.setTof_pending (v : Word) : (s.setTof v).pending = s.pending := rfl

/-! `setSample` -/
@[simp] theorem State.setSample_period (r m : Word) (k : BitVec 32) : (s.setSample r m k).period = s.period := rfl
@[simp] theorem State.setSample_a (r m : Word) (k : BitVec 32) : (s.setSample r m k).a = s.a := rfl
@[simp] theorem State.setSample_b (r m : Word) (k : BitVec 32) : (s.setSample r m k).b = s.b := rfl
@[simp] theorem State.setSample_res (r m : Word) (k : BitVec 32) : (s.setSample r m k).res = s.res := rfl
@[simp] theorem State.setSample_status (r m : Word) (k : BitVec 32) : (s.setSample r m k).status = s.status := rfl
@[simp] theorem State.setSample_tof (r m : Word) (k : BitVec 32) : (s.setSample r m k).tof = s.tof := rfl
@[simp] theorem State.setSample_n (r m : Word) (k : BitVec 32) : (s.setSample r m k).n = k := rfl
@[simp] theorem State.setSample_ts (r m : Word) (k : BitVec 32) : (s.setSample r m k).ts = r := rfl
@[simp] theorem State.setSample_tm (r m : Word) (k : BitVec 32) : (s.setSample r m k).tm = m := rfl
@[simp] theorem State.setSample_rnum (r m : Word) (k : BitVec 32) : (s.setSample r m k).rnum = s.rnum := rfl
@[simp] theorem State.setSample_rden (r m : Word) (k : BitVec 32) : (s.setSample r m k).rden = s.rden := rfl
@[simp] theorem State.setSample_freeReads (r m : Word) (k : BitVec 32) : (s.setSample r m k).freeReads = s.freeReads := rfl
@[simp] theorem State.setSample_inReset (r m : Word) (k : BitVec 32) : (s.setSample r m k).inReset = s.inReset := rfl
@[simp] theorem State.setSample_rsp (r m : Word) (k : BitVec 32) : (s.setSample r m k).rsp = s.rsp := rfl
@[simp] theorem State.setSample_host (r m : Word) (k : BitVec 32) : (s.setSample r m k).host = s.host := rfl
@[simp] theorem State.setSample_pending (r m : Word) (k : BitVec 32) : (s.setSample r m k).pending = s.pending := rfl

/-! `setRatio` -/
@[simp] theorem State.setRatio_period (x y : Word) : (s.setRatio x y).period = s.period := rfl
@[simp] theorem State.setRatio_a (x y : Word) : (s.setRatio x y).a = s.a := rfl
@[simp] theorem State.setRatio_b (x y : Word) : (s.setRatio x y).b = s.b := rfl
@[simp] theorem State.setRatio_res (x y : Word) : (s.setRatio x y).res = s.res := rfl
@[simp] theorem State.setRatio_status (x y : Word) : (s.setRatio x y).status = s.status := rfl
@[simp] theorem State.setRatio_tof (x y : Word) : (s.setRatio x y).tof = s.tof := rfl
@[simp] theorem State.setRatio_n (x y : Word) : (s.setRatio x y).n = s.n := rfl
@[simp] theorem State.setRatio_ts (x y : Word) : (s.setRatio x y).ts = s.ts := rfl
@[simp] theorem State.setRatio_tm (x y : Word) : (s.setRatio x y).tm = s.tm := rfl
@[simp] theorem State.setRatio_rnum (x y : Word) : (s.setRatio x y).rnum = x := rfl
@[simp] theorem State.setRatio_rden (x y : Word) : (s.setRatio x y).rden = y := rfl
@[simp] theorem State.setRatio_freeReads (x y : Word) : (s.setRatio x y).freeReads = s.freeReads := rfl
@[simp] theorem State.setRatio_inReset (x y : Word) : (s.setRatio x y).inReset = s.inReset := rfl
@[simp] theorem State.setRatio_rsp (x y : Word) : (s.setRatio x y).rsp = s.rsp := rfl
@[simp] theorem State.setRatio_host (x y : Word) : (s.setRatio x y).host = s.host := rfl
@[simp] theorem State.setRatio_pending (x y : Word) : (s.setRatio x y).pending = s.pending := rfl

/-! `respond` -/
@[simp] theorem State.respond_period (r : Response) : (s.respond r).period = s.period := rfl
@[simp] theorem State.respond_a (r : Response) : (s.respond r).a = s.a := rfl
@[simp] theorem State.respond_b (r : Response) : (s.respond r).b = s.b := rfl
@[simp] theorem State.respond_res (r : Response) : (s.respond r).res = s.res := rfl
@[simp] theorem State.respond_status (r : Response) : (s.respond r).status = s.status := rfl
@[simp] theorem State.respond_tof (r : Response) : (s.respond r).tof = s.tof := rfl
@[simp] theorem State.respond_n (r : Response) : (s.respond r).n = s.n := rfl
@[simp] theorem State.respond_ts (r : Response) : (s.respond r).ts = s.ts := rfl
@[simp] theorem State.respond_tm (r : Response) : (s.respond r).tm = s.tm := rfl
@[simp] theorem State.respond_rnum (r : Response) : (s.respond r).rnum = s.rnum := rfl
@[simp] theorem State.respond_rden (r : Response) : (s.respond r).rden = s.rden := rfl
@[simp] theorem State.respond_freeReads (r : Response) : (s.respond r).freeReads = s.freeReads := rfl
@[simp] theorem State.respond_inReset (r : Response) : (s.respond r).inReset = s.inReset := rfl
@[simp] theorem State.respond_rsp (r : Response) : (s.respond r).rsp = some r := rfl
@[simp] theorem State.respond_host (r : Response) : (s.respond r).host = s.host := rfl
@[simp] theorem State.respond_pending (r : Response) : (s.respond r).pending = s.pending := rfl

/-! `countFreeRead` -/
@[simp] theorem State.countFreeRead_period : (s.countFreeRead).period = s.period := rfl
@[simp] theorem State.countFreeRead_a : (s.countFreeRead).a = s.a := rfl
@[simp] theorem State.countFreeRead_b : (s.countFreeRead).b = s.b := rfl
@[simp] theorem State.countFreeRead_res : (s.countFreeRead).res = s.res := rfl
@[simp] theorem State.countFreeRead_status : (s.countFreeRead).status = s.status := rfl
@[simp] theorem State.countFreeRead_tof : (s.countFreeRead).tof = s.tof := rfl
@[simp] theorem State.countFreeRead_n : (s.countFreeRead).n = s.n := rfl
@[simp] theorem State.countFreeRead_ts : (s.countFreeRead).ts = s.ts := rfl
@[simp] theorem State.countFreeRead_tm : (s.countFreeRead).tm = s.tm := rfl
@[simp] theorem State.countFreeRead_rnum : (s.countFreeRead).rnum = s.rnum := rfl
@[simp] theorem State.countFreeRead_rden : (s.countFreeRead).rden = s.rden := rfl
@[simp] theorem State.countFreeRead_freeReads : (s.countFreeRead).freeReads = s.freeReads + 1 := rfl
@[simp] theorem State.countFreeRead_inReset : (s.countFreeRead).inReset = s.inReset := rfl
@[simp] theorem State.countFreeRead_rsp : (s.countFreeRead).rsp = s.rsp := rfl
@[simp] theorem State.countFreeRead_host : (s.countFreeRead).host = s.host := rfl
@[simp] theorem State.countFreeRead_pending : (s.countFreeRead).pending = s.pending := rfl

/-! `setHost` -/
@[simp] theorem State.setHost_period (h : HostAgent) : (s.setHost h).period = s.period := rfl
@[simp] theorem State.setHost_a (h : HostAgent) : (s.setHost h).a = s.a := rfl
@[simp] theorem State.setHost_b (h : HostAgent) : (s.setHost h).b = s.b := rfl
@[simp] theorem State.setHost_res (h : HostAgent) : (s.setHost h).res = s.res := rfl
@[simp] theorem State.setHost_status (h : HostAgent) : (s.setHost h).status = s.status := rfl
@[simp] theorem State.setHost_tof (h : HostAgent) : (s.setHost h).tof = s.tof := rfl
@[simp] theorem State.setHost_n (h : HostAgent) : (s.setHost h).n = s.n := rfl
@[simp] theorem State.setHost_ts (h : HostAgent) : (s.setHost h).ts = s.ts := rfl
@[simp] theorem State.setHost_tm (h : HostAgent) : (s.setHost h).tm = s.tm := rfl
@[simp] theorem State.setHost_rnum (h : HostAgent) : (s.setHost h).rnum = s.rnum := rfl
@[simp] theorem State.setHost_rden (h : HostAgent) : (s.setHost h).rden = s.rden := rfl
@[simp] theorem State.setHost_freeReads (h : HostAgent) : (s.setHost h).freeReads = s.freeReads := rfl
@[simp] theorem State.setHost_inReset (h : HostAgent) : (s.setHost h).inReset = s.inReset := rfl
@[simp] theorem State.setHost_rsp (h : HostAgent) : (s.setHost h).rsp = s.rsp := rfl
@[simp] theorem State.setHost_host (h : HostAgent) : (s.setHost h).host = h := rfl
@[simp] theorem State.setHost_pending (h : HostAgent) : (s.setHost h).pending = s.pending := rfl

/-! `setPending` -/
@[simp] theorem State.setPending_period (es : List Event) : (s.setPending es).period = s.period := rfl
@[simp] theorem State.setPending_a (es : List Event) : (s.setPending es).a = s.a := rfl
@[simp] theorem State.setPending_b (es : List Event) : (s.setPending es).b = s.b := rfl
@[simp] theorem State.setPending_res (es : List Event) : (s.setPending es).res = s.res := rfl
@[simp] theorem State.setPending_status (es : List Event) : (s.setPending es).status = s.status := rfl
@[simp] theorem State.setPending_tof (es : List Event) : (s.setPending es).tof = s.tof := rfl
@[simp] theorem State.setPending_n (es : List Event) : (s.setPending es).n = s.n := rfl
@[simp] theorem State.setPending_ts (es : List Event) : (s.setPending es).ts = s.ts := rfl
@[simp] theorem State.setPending_tm (es : List Event) : (s.setPending es).tm = s.tm := rfl
@[simp] theorem State.setPending_rnum (es : List Event) : (s.setPending es).rnum = s.rnum := rfl
@[simp] theorem State.setPending_rden (es : List Event) : (s.setPending es).rden = s.rden := rfl
@[simp] theorem State.setPending_freeReads (es : List Event) : (s.setPending es).freeReads = s.freeReads := rfl
@[simp] theorem State.setPending_inReset (es : List Event) : (s.setPending es).inReset = s.inReset := rfl
@[simp] theorem State.setPending_rsp (es : List Event) : (s.setPending es).rsp = s.rsp := rfl
@[simp] theorem State.setPending_host (es : List Event) : (s.setPending es).host = s.host := rfl
@[simp] theorem State.setPending_pending (es : List Event) : (s.setPending es).pending = es := rfl

/-! `assertReset` -/
@[simp] theorem State.assertReset_period : (s.assertReset).period = s.period := rfl
@[simp] theorem State.assertReset_a : (s.assertReset).a = s.a := rfl
@[simp] theorem State.assertReset_b : (s.assertReset).b = s.b := rfl
@[simp] theorem State.assertReset_res : (s.assertReset).res = s.res := rfl
@[simp] theorem State.assertReset_status : (s.assertReset).status = s.status := rfl
@[simp] theorem State.assertReset_tof : (s.assertReset).tof = s.tof := rfl
@[simp] theorem State.assertReset_n : (s.assertReset).n = s.n := rfl
@[simp] theorem State.assertReset_ts : (s.assertReset).ts = s.ts := rfl
@[simp] theorem State.assertReset_tm : (s.assertReset).tm = s.tm := rfl
@[simp] theorem State.assertReset_rnum : (s.assertReset).rnum = s.rnum := rfl
@[simp] theorem State.assertReset_rden : (s.assertReset).rden = s.rden := rfl
@[simp] theorem State.assertReset_freeReads : (s.assertReset).freeReads = s.freeReads := rfl
@[simp] theorem State.assertReset_inReset : (s.assertReset).inReset = true := rfl
@[simp] theorem State.assertReset_rsp : (s.assertReset).rsp = s.rsp := rfl
@[simp] theorem State.assertReset_host : (s.assertReset).host = s.host := rfl
@[simp] theorem State.assertReset_pending : (s.assertReset).pending = s.pending := rfl

/-! `complete` -/
@[simp] theorem State.complete_period (c : Code) : (s.complete c).period = s.period := rfl
@[simp] theorem State.complete_a (c : Code) : (s.complete c).a = s.a := rfl
@[simp] theorem State.complete_b (c : Code) : (s.complete c).b = s.b := rfl
@[simp] theorem State.complete_res (c : Code) : (s.complete c).res = s.res := rfl
@[simp] theorem State.complete_status (c : Code) : (s.complete c).status = s.status.record c := rfl
@[simp] theorem State.complete_tof (c : Code) : (s.complete c).tof = s.tof := rfl
@[simp] theorem State.complete_n (c : Code) : (s.complete c).n = s.n := rfl
@[simp] theorem State.complete_ts (c : Code) : (s.complete c).ts = s.ts := rfl
@[simp] theorem State.complete_tm (c : Code) : (s.complete c).tm = s.tm := rfl
@[simp] theorem State.complete_rnum (c : Code) : (s.complete c).rnum = s.rnum := rfl
@[simp] theorem State.complete_rden (c : Code) : (s.complete c).rden = s.rden := rfl
@[simp] theorem State.complete_freeReads (c : Code) : (s.complete c).freeReads = s.freeReads := rfl
@[simp] theorem State.complete_inReset (c : Code) : (s.complete c).inReset = s.inReset := rfl
@[simp] theorem State.complete_rsp (c : Code) : (s.complete c).rsp = s.rsp := rfl
@[simp] theorem State.complete_host (c : Code) : (s.complete c).host = s.host := rfl
@[simp] theorem State.complete_pending (c : Code) : (s.complete c).pending = s.pending := rfl

/-! `releaseReset` -/
@[simp] theorem State.releaseReset_period : s.releaseReset.period = s.period := rfl
@[simp] theorem State.releaseReset_a : s.releaseReset.a = 0#64 := rfl
@[simp] theorem State.releaseReset_b : s.releaseReset.b = 0#64 := rfl
@[simp] theorem State.releaseReset_res : s.releaseReset.res = 0#64 := rfl
@[simp] theorem State.releaseReset_status : s.releaseReset.status = Status.reset := rfl
@[simp] theorem State.releaseReset_tof : s.releaseReset.tof = 0#64 := rfl
@[simp] theorem State.releaseReset_n : s.releaseReset.n = 0#32 := rfl
@[simp] theorem State.releaseReset_ts : s.releaseReset.ts = Config.unspecifiedAtReset := rfl
@[simp] theorem State.releaseReset_tm : s.releaseReset.tm = Config.unspecifiedAtReset := rfl
@[simp] theorem State.releaseReset_rnum : s.releaseReset.rnum = Config.unspecifiedAtReset := rfl
@[simp] theorem State.releaseReset_rden : s.releaseReset.rden = Config.unspecifiedAtReset := rfl
@[simp] theorem State.releaseReset_freeReads : s.releaseReset.freeReads = s.freeReads := rfl
@[simp] theorem State.releaseReset_inReset : s.releaseReset.inReset = false := rfl
@[simp] theorem State.releaseReset_rsp : s.releaseReset.rsp = none := rfl
@[simp] theorem State.releaseReset_host : s.releaseReset.host = s.host := rfl
@[simp] theorem State.releaseReset_pending : s.releaseReset.pending = s.pending := rfl

/-! `record` -/
@[simp] theorem Status.record_fIllegal (st : Status) (c : Code) :
    (st.record c).fIllegal = (st.fIllegal || c == .illegal) := rfl
@[simp] theorem Status.record_fOperand (st : Status) (c : Code) :
    (st.record c).fOperand = (st.fOperand || c == .operand) := rfl
@[simp] theorem Status.record_fOverflow (st : Status) (c : Code) :
    (st.record c).fOverflow = (st.fOverflow || c == .overflow) := rfl
@[simp] theorem Status.record_fDivzero (st : Status) (c : Code) :
    (st.record c).fDivzero = (st.fDivzero || c == .divzero) := rfl
@[simp] theorem Status.record_fRange (st : Status) (c : Code) :
    (st.record c).fRange = (st.fRange || c == .range) := rfl
@[simp] theorem Status.record_last (st : Status) (c : Code) : (st.record c).last = c := rfl

end Sys2Proof.Machine
end

