-- ==== Sys2Proof/Laws/Ops.lean ====
section
/-! SUPPORT. For each shared operation, once, everything it can do; the provers cite these instead of
unfolding the operation. -/

namespace Sys2Proof.Machine

/-! ## Sequencing -/

@[simp] theorem andThen_next {α β : Type} (x : α) (f : α → Host.Outcome β Fault Refusal) :
    andThen (.next x) f = f x := rfl

@[simp] theorem andThen_fault {α β : Type} (r : Fault) (f : α → Host.Outcome β Fault Refusal) :
    andThen (.fault r) f = .fault r := rfl

@[simp] theorem andThen_refused {α β : Type} (r : Refusal) (f : α → Host.Outcome β Fault Refusal) :
    andThen (.refused r) f = .refused r := rfl

/-- If a sequence answers a next state, both its parts did. -/
theorem andThen_eq_next {α β : Type} {o : Host.Outcome α Fault Refusal}
    {f : α → Host.Outcome β Fault Refusal} {y : β} :
    andThen o f = .next y ↔ ∃ x, o = .next x ∧ f x = .next y := by
  cases o <;> simp

/-! ## Ending a command -/

@[simp] theorem complete_eq (c : Code) (s : State) : complete c s = .next (s.complete c) := rfl

@[simp] theorem deliver_eq (v : Word) (s : State) :
    deliver v s = .next ((s.setRes v).complete .ok) := rfl

/-! ## Exact integers and their words -/

/-- An integer of 64 bits signed survives its register (R16). -/
theorem sint_narrow {x : Int} (h : FitsI64 x) : sint (narrow x) = x := by
  unfold sint narrow
  rw [BitVec.toInt_ofInt]
  exact Int.bmod_eq_of_le (by have := h.1; norm_num at *; omega) (by have := h.2; norm_num at *; omega)

/-- A value in `[0, P)`, for an admitted period, survives its register. -/
theorem sint_narrow_of_inPeriod {p x : Int} (hp : Config.Admitted p) (h : InPeriod p x) :
    sint (narrow x) = x :=
  sint_narrow ⟨by have := h.1; norm_num; omega, by have := h.2; have := hp.2; norm_num at *; omega⟩

/-- A register's word is the word of its signed reading. -/
@[simp] theorem narrow_sint (v : Word) : narrow (sint v) = v := BitVec.ofInt_toInt

/-- `field2ts` is a multiplication by 256: the mask removes nothing (R110). -/
theorem field2ts_eq (f : BitVec 32) : field2ts f = f.toNat * 256 := by
  have h := f.isLt
  unfold field2ts Config.MASK40
  rw [show (0xFFFFFFFFFF : Nat) = 2 ^ 40 - 1 from rfl, Nat.and_two_pow_sub_one_eq_mod,
    Nat.mod_eq_of_lt (by omega)]
  norm_num

/-- Every converted time is below every admitted period (R9, R114). -/
theorem ticks2ns_inPeriod {p : Int} {t : Nat} (hp : Config.Admitted p) (h : t < 2 ^ 40) :
    InPeriod p (ticks2ns t) := by
  have := hp.1
  unfold ticks2ns Config.NS_NUM Config.NS_DEN
  constructor <;> omega

/-- The field's tick value is a 40-bit timestamp (R110). -/
theorem field2ts_lt (f : BitVec 32) : field2ts f < 2 ^ 40 := by
  rw [field2ts_eq]; have := f.isLt; omega

/-! ## The model update and the projection -/

/-- What `supd` can do: the first sample, `DIVZERO`, or an update of ratio and sample (R152, R154). -/
theorem supd_cases (r m : Int) (s : State) :
    (s.n.toNat = 0 ∧ supd r m s = .next ((s.setSample (narrow r) (narrow m) 1#32).complete .ok))
    ∨ (1 ≤ s.n.toNat ∧ diffP s.period r (sint s.ts) = 0 ∧ supd r m s = .next (s.complete .divzero))
    ∨ (1 ≤ s.n.toNat ∧ diffP s.period r (sint s.ts) ≠ 0 ∧ supd r m s = .next
        (((s.setRatio (narrow (diffP s.period m (sint s.tm))) (narrow (diffP s.period r (sint s.ts)))).setSample
          (narrow r) (narrow m) (countUp s.n)).complete .ok)) := by
  unfold supd
  by_cases h0 : s.n.toNat = 0
  · simp [h0]
  · by_cases hd : diffP s.period r (sint s.ts) = 0
    · simp [h0, hd]; omega
    · simp [h0, hd]; omega

/-- What `project` can do: deliver the sum, deliver it less `P`, or `RANGE` (R156). -/
theorem project_cases (t : Int) (s : State) :
    (projectionSum t s < s.period
      ∧ project t s = .next ((s.setRes (narrow (projectionSum t s))).complete .ok))
    ∨ (s.period ≤ projectionSum t s ∧ projectionSum t s < 2 * s.period
      ∧ project t s = .next ((s.setRes (narrow (projectionSum t s - s.period))).complete .ok))
    ∨ (s.period ≤ projectionSum t s ∧ 2 * s.period ≤ projectionSum t s ∧ project t s = .next (s.complete .range)) := by
  unfold project
  by_cases h1 : projectionSum t s < s.period
  · simp [h1]
  · by_cases h2 : projectionSum t s < 2 * s.period
    · simp [h1, h2]; omega
    · simp [h1, h2]; omega

/-! ## A command -/

/-- The counter after the first sample is 1. -/
theorem countUp_zero {n : BitVec 32} (h : n.toNat = 0) : countUp n = 1#32 := by
  simp [countUp, h]

/-- The counter's value after an update (R33). -/
theorem countUp_toNat (n : BitVec 32) : (countUp n).toNat = min (n.toNat + 1) (2 ^ 32 - 1) := by
  simp only [countUp, BitVec.toNat_ofNat]
  exact Nat.mod_eq_of_lt (by omega)

/-- What `supd` can do, in the form that `exec_cases` uses. -/
theorem supd_shape (r m : Int) (s : State) :
    (∃ c, c ≠ .ok ∧ supd r m s = .next (s.complete c))
    ∨ ∃ x y u v, supd r m s =
        .next (((s.setRatio x y).setSample u v (countUp s.n)).complete .ok) := by
  rcases supd_cases r m s with ⟨h0, h⟩ | ⟨_, _, h⟩ | ⟨_, _, h⟩
  · refine .inr ⟨s.rnum, s.rden, narrow r, narrow m, ?_⟩
    rw [h, countUp_zero h0]; rfl
  · exact .inl ⟨_, by decide, h⟩
  · exact .inr ⟨_, _, _, _, h⟩

/-- What `project` can do, in the form that `exec_cases` uses. -/
theorem project_shape (t : Int) (s : State) :
    (∃ c, c ≠ .ok ∧ project t s = .next (s.complete c))
    ∨ ∃ v, project t s = .next ((s.setRes v).complete .ok) := by
  rcases project_cases t s with ⟨_, h⟩ | ⟨_, _, h⟩ | ⟨_, _, h⟩
  · exact .inr ⟨_, h⟩
  · exact .inr ⟨_, h⟩
  · exact .inl ⟨_, by decide, h⟩

/-- Everything a command can do (R181, R191): end with a code other than `OK` and touch nothing but
`STATUS`; deliver a value into `RES`; or, for `SUPD` and `REFEV`, update the model and count. -/
theorem exec_cases (i : Instr) (s : State) :
    (∃ c, c ≠ .ok ∧ exec i s = .next (s.complete c))
    ∨ (i ≠ .supd ∧ i ≠ .refev ∧ ∃ v, exec i s = .next ((s.setRes v).complete .ok))
    ∨ ((i = .supd ∨ i = .refev) ∧ ∃ x y u v, exec i s =
        .next (((s.setRatio x y).setSample u v (countUp s.n)).complete .ok)) := by
  cases i with
  | rxts => exact .inr (.inl ⟨by decide, by decide, _, rfl⟩)
  | fldts => exact .inr (.inl ⟨by decide, by decide, _, rfl⟩)
  | ts2ns =>
    simp only [exec, execTs2ns]
    split
    · exact .inl ⟨_, by decide, rfl⟩
    · exact .inr (.inl ⟨by decide, by decide, _, rfl⟩)
  | diff =>
    simp only [exec, execDiff]
    split
    · exact .inr (.inl ⟨by decide, by decide, _, rfl⟩)
    · exact .inl ⟨_, by decide, rfl⟩
  | addw =>
    simp only [exec, execAddw]
    split
    · exact .inr (.inl ⟨by decide, by decide, _, rfl⟩)
    · exact .inl ⟨_, by decide, rfl⟩
  | tcorr =>
    simp only [exec, execTcorr]
    split
    · exact .inr (.inl ⟨by decide, by decide, _, rfl⟩)
    · exact .inl ⟨_, by decide, rfl⟩
  | supd =>
    simp only [exec, execSupd]
    split
    · rcases supd_shape (sint s.a) (sint s.b) s with h | h
      · exact .inl h
      · exact .inr (.inr ⟨by simp, h⟩)
    · exact .inl ⟨_, by decide, rfl⟩
  | proj =>
    simp only [exec, execProj]
    split
    · exact .inl ⟨_, by decide, rfl⟩
    · split
      · rcases project_shape (sint s.a) s with h | h
        · exact .inl h
        · exact .inr (.inl ⟨by decide, by decide, h⟩)
      · exact .inl ⟨_, by decide, rfl⟩
  | refev =>
    rcases supd_shape (ticks2ns (ticksOf s.a).toNat)
      (diffP s.period (ticks2ns (field2ts (fieldOf s.b))) (sint s.tof)) s with h | h
    · exact .inl h
    · exact .inr (.inr ⟨by simp, h⟩)
  | peerev =>
    simp only [exec, execPeerev]
    split
    · exact .inl ⟨_, by decide, rfl⟩
    · rcases project_shape (ticks2ns (ticksOf s.a).toNat) s with h | h
      · exact .inl h
      · exact .inr (.inl ⟨by decide, by decide, h⟩)

/-- Everything a command word can do: run the command it encodes, or complete with `ILLEGAL`
(R91, R182). -/
theorem runCommand_cases (w : Word) (s : State) :
    (∃ i, decode w = .ok i ∧ runCommand w s = exec i s)
    ∨ ((∀ i, decode w ≠ .ok i) ∧ runCommand w s = .next (s.complete .illegal)) := by
  unfold runCommand
  cases h : decode w with
  | ok i => exact .inl ⟨i, rfl, rfl⟩
  | error e => exact .inr ⟨by simp, rfl⟩

/-! ## The port -/

/-- A transaction of 8 bytes at a register's offset addresses that register. -/
@[simp] theorem portReg_offset (r : Reg) : portReg r.offset 8#4 = some r := by
  cases r <;> rfl

/-- A write at the offset of `CMD` runs the command word. -/
theorem portWrite_cmd (w : Word) (s : State) :
    portWrite 0x18#8 8#4 w s = andThen (runCommand w s) fun s' => .next (s'.respond .ok) := rfl

/-- A write at the offset of `A`. -/
theorem portWrite_a (v : Word) (s : State) :
    portWrite 0x00#8 8#4 v s = .next ((s.setA v).respond .ok) := rfl

/-- A write at the offset of `B`. -/
theorem portWrite_b (v : Word) (s : State) :
    portWrite 0x08#8 8#4 v s = .next ((s.setB v).respond .ok) := rfl

/-- A write at the offset of `TOF`. -/
theorem portWrite_tof (v : Word) (s : State) :
    portWrite 0x28#8 8#4 v s = .next (writeTof v s) := rfl

/-- A read at a register's offset, where the register's value is specified. -/
theorem portRead_offset {r : Reg} {v : Word} {s : State} (hv : regValue s r = some v)
    (hu : unspecified s r = false) : portRead r.offset 8#4 s = s.respond (.data v) := by
  simp [portRead, hv, hu]

/-- Outside reset a read reads the port. -/
theorem transact_read {s : State} (h : s.inReset = false) (addr : BitVec 8) (size : BitVec 4) :
    transact (.read addr size) s = .next (portRead addr size s) := by
  simp [transact, h]

/-- Outside reset a write writes the port. -/
theorem transact_write {s : State} (h : s.inReset = false) (addr : BitVec 8) (size : BitVec 4)
    (v : Word) : transact (.write addr size v) s = portWrite addr size v s := by
  simp [transact, h]

/-- Everything a host read can do (R61, R232): an error, a free value, or the register's value. -/
theorem portRead_cases (addr : BitVec 8) (size : BitVec 4) (s : State) :
    ((portReg addr size = none ∨ portReg addr size = some .cmd)
      ∧ portRead addr size s = s.respond .err)
    ∨ (∃ r, portReg addr size = some r ∧ unspecified s r = true
      ∧ portRead addr size s = s.countFreeRead.respond (.data (Config.freeRead s.freeReads)))
    ∨ (∃ r v, portReg addr size = some r ∧ unspecified s r = false ∧ regValue s r = some v
      ∧ portRead addr size s = s.respond (.data v)) := by
  unfold portRead
  cases h : portReg addr size with
  | none => exact .inl ⟨.inl rfl, rfl⟩
  | some r =>
    cases hu : unspecified s r with
    | true => exact .inr (.inl ⟨r, rfl, hu, by simp [hu]⟩)
    | false =>
      cases hv : regValue s r with
      | none =>
        have hr : r = .cmd := by cases r <;> simp_all [regValue]
        exact .inl ⟨.inr (by rw [hr]), by simp [hu]; simp [hv]⟩
      | some v => exact .inr (.inr ⟨r, v, rfl, hu, hv, by simp [hu]; simp [hv]⟩)

/-- Everything a host write can do (R62, R63, R66). -/
theorem portWrite_cases (addr : BitVec 8) (size : BitVec 4) (v : Word) (s : State) :
    (portReg addr size = some .a ∧ portWrite addr size v s = .next ((s.setA v).respond .ok))
    ∨ (portReg addr size = some .b ∧ portWrite addr size v s = .next ((s.setB v).respond .ok))
    ∨ (portReg addr size = some .tof ∧ InPeriod s.period (sint v)
      ∧ portWrite addr size v s = .next ((s.setTof v).respond .ok))
    ∨ (portReg addr size = some .cmd
      ∧ portWrite addr size v s = andThen (runCommand v s) fun s' => .next (s'.respond .ok))
    ∨ (portReg addr size ≠ some .a ∧ portReg addr size ≠ some .b ∧ portReg addr size ≠ some .cmd
      ∧ (portReg addr size = some .tof → ¬ InPeriod s.period (sint v))
      ∧ portWrite addr size v s = .next (s.respond .err)) := by
  unfold portWrite
  cases h : portReg addr size with
  | none => simp
  | some r =>
    cases r with
    | tof =>
      by_cases hv : InPeriod s.period (sint v)
      · exact .inr (.inr (.inl ⟨rfl, hv, by simp [writeTof, hv]⟩))
      · simp [writeTof, hv]
    | _ => simp

/-- While `rst` is asserted a transaction is refused; otherwise it reads or writes the port. -/
theorem transact_cases (t : Txn) (s : State) :
    (s.inReset = true ∧ transact t s = .refused .transactionDuringReset)
    ∨ (s.inReset = false ∧ ∃ addr size, t = .read addr size
      ∧ transact t s = .next (portRead addr size s))
    ∨ (s.inReset = false ∧ ∃ addr size v, t = .write addr size v
      ∧ transact t s = portWrite addr size v s) := by
  unfold transact
  cases h : s.inReset with
  | true => simp
  | false =>
    cases t with
    | read addr size => exact .inr (.inl ⟨rfl, addr, size, rfl, rfl⟩)
    | write addr size v => exact .inr (.inr ⟨rfl, addr, size, v, rfl, rfl⟩)

/-- What a level of `rst` does (R230). -/
theorem resetInput_cases (level : Bool) (s : State) :
    (level = true ∧ resetInput level s = s.assertReset)
    ∨ (level = false ∧ s.inReset = true ∧ resetInput level s = s.releaseReset)
    ∨ (level = false ∧ s.inReset = false ∧ resetInput level s = s) := by
  unfold resetInput
  cases level <;> cases h : s.inReset <;> simp

/-! ## A step -/

/-- A step with an event to come handles it. -/
theorem step_of_pending {s : State} {e : Event} {rest : List Event} (h : s.pending = e :: rest) :
    step s = handle e (s.setPending rest) := by
  unfold step; rw [h]

/-- A step is idle, or handles the next event on the state without it (R44). -/
theorem step_cases (s : State) :
    (s.pending = [] ∧ step s = .next s)
    ∨ ∃ e rest, s.pending = e :: rest ∧ step s = handle e (s.setPending rest) := by
  unfold step
  cases h : s.pending with
  | nil => exact .inl ⟨rfl, rfl⟩
  | cons e rest => exact .inr ⟨e, rest, rfl, rfl⟩

end Sys2Proof.Machine
end

