-- ==== Sys2Proof/Laws/HostLoop.lean ====
section
/-! SUPPORT. For each operation of the host agent, once, everything it can do. -/

namespace Sys2Proof.Machine

/-- A byte of the buffer's content is what was last written there, or the free value (log 19). -/
theorem HostAgent.bufferByte_eq (h : HostAgent) (a : Nat) :
    h.bufferByte a = (h.buffer.read a).getD (Config.unwrittenByte a) := by
  unfold HostAgent.bufferByte
  cases h.buffer.read a <;> rfl

/-- A frame is dropped, or is Reference, or is Peer (R207, R208). -/
theorem dispatchFrame_cases (cfg : HostConfig) (s : State) :
    (cfg.cap < s.host.rxBytes.length ∧ dispatchFrame cfg s = .next s.frameDone)
    ∨ (s.host.rxBytes.length ≤ cfg.cap ∧ sourceId cfg s.host.readFrame = cfg.refId
      ∧ dispatchFrame cfg s = feedReference cfg (s.setHost s.host.readFrame))
    ∨ (s.host.rxBytes.length ≤ cfg.cap ∧ sourceId cfg s.host.readFrame ≠ cfg.refId
      ∧ dispatchFrame cfg s =
        .next (feedPeer (sourceId cfg s.host.readFrame) (s.setHost s.host.readFrame))) := by
  unfold dispatchFrame
  by_cases hc : cfg.cap < s.host.rxBytes.length
  · exact .inl ⟨hc, if_pos hc⟩
  · by_cases hid : sourceId cfg s.host.readFrame = cfg.refId
    · exact .inr (.inl ⟨by omega, hid, by rw [if_neg hc, if_pos hid]⟩)
    · exact .inr (.inr ⟨by omega, hid, by rw [if_neg hc, if_neg hid]⟩)

/-- What the loop does once its transactions are answered changes the host alone. -/
theorem continueWith_shape (cfg : HostConfig) (k : After) (v : Option Word) (s : State) :
    ∃ h, continueWith cfg k v s = s.setHost h := by
  unfold continueWith
  split
  · split <;> exact ⟨_, rfl⟩
  all_goals exact ⟨_, rfl⟩

/-- A turn of the loop that answers a next state changes the host alone, after one transaction or
none. -/
theorem loopTurn_shape {cfg : HostConfig} {s s' : State} (h : loopTurn cfg s = .next s') :
    (∃ h', s' = s.setHost h') ∨ ∃ t s1, transact t s = .next s1 ∧ ∃ h', s' = s1.setHost h' := by
  unfold loopTurn at h
  split at h
  case h_1 => cases h; exact .inl ⟨_, rfl⟩
  case h_2 =>
    split at h
    · rcases dispatchFrame_cases cfg s with ⟨_, e⟩ | ⟨_, _, e⟩ | ⟨_, _, e⟩ <;> rw [e] at h
      · cases h; exact .inl ⟨_, rfl⟩
      · obtain ⟨_, _, hf⟩ := andThen_eq_next.mp h
        cases hf; exact .inl ⟨_, rfl⟩
      · cases h; exact .inl ⟨_, rfl⟩
    · split at h <;> (cases h; exact .inl ⟨_, rfl⟩)
  case h_3 t rest k _ =>
    obtain ⟨s1, h1, h2⟩ := andThen_eq_next.mp h
    refine .inr ⟨t, s1, h1, ?_⟩
    split at h2
    · cases h2; exact ⟨_, rfl⟩
    · cases h2; exact continueWith_shape cfg k _ s1
  case h_4 =>
    cases h
    unfold endIteration
    split <;> exact .inl ⟨_, rfl⟩

end Sys2Proof.Machine
end

