-- ==== Sys2Proof/Laws/Memory.lean ====
section
/-! SUPPORT. Every operation on the frame buffer keeps the canonical form. -/

namespace Sys2Proof.Machine

/-- The canonical form of a non-empty memory. -/
theorem Memory.wf_cons (c : Host.Cell) (cs : Memory) :
    Memory.wf (c :: cs) = true ↔ (∀ d ∈ cs, c.1 < d.1) ∧ Memory.wf cs = true := by
  simp [Memory.wf]

/-- A cell after a write is the written one or was there before. -/
theorem Memory.mem_write {m : Memory} {a : Nat} {v : Byte} {d : Host.Cell}
    (h : d ∈ m.write a v) : d = (a, v) ∨ d ∈ m := by
  induction m with
  | nil => exact .inl (by simpa [Memory.write] using h)
  | cons c cs ih =>
    unfold Memory.write at h
    split at h
    · simpa using h
    · split at h
      · rcases List.mem_cons.mp h with h | h
        · exact .inl h
        · exact .inr (List.mem_cons_of_mem _ h)
      · rcases List.mem_cons.mp h with h | h
        · exact .inr (by simp [h])
        · rcases ih h with h | h
          · exact .inl h
          · exact .inr (List.mem_cons_of_mem _ h)

/-- A write keeps the canonical form. -/
theorem Memory.write_wf {m : Memory} (a : Nat) (v : Byte) (h : m.wf = true) :
    (m.write a v).wf = true := by
  induction m with
  | nil => rfl
  | cons c cs ih =>
    obtain ⟨hc, hcs⟩ := (Memory.wf_cons c cs).mp h
    unfold Memory.write
    split
    case isTrue hlt =>
      refine (Memory.wf_cons _ _).mpr ⟨fun d hd => ?_, h⟩
      rcases List.mem_cons.mp hd with rfl | hd
      · exact hlt
      · exact lt_trans hlt (hc d hd)
    case isFalse hge =>
      split
      case isTrue heq =>
        subst heq
        exact (Memory.wf_cons _ _).mpr ⟨hc, hcs⟩
      case isFalse hne =>
        refine (Memory.wf_cons _ _).mpr ⟨fun d hd => ?_, ih hcs⟩
        rcases Memory.mem_write hd with rfl | hd
        · show c.1 < a; omega
        · exact hc d hd

/-- Writing consecutive bytes keeps the canonical form. -/
theorem Memory.fill_wf {m : Memory} (a : Nat) (bs : List Byte) (h : m.wf = true) :
    (m.fill a bs).wf = true := by
  induction bs generalizing m a with
  | nil => exact h
  | cons x xs ih => exact ih (a + 1) (Memory.write_wf a x h)

/-- The memory right after reset is in the canonical form. -/
theorem reset_buffer_wf : State.reset.host.buffer.wf = true := rfl

end Sys2Proof.Machine
end

