-- ==== Sys2Proof/Laws/PerInstr.lean ====
section
/-! SUPPORT. What is said of every command, command by command: its word has the form `CMD64` (R90),
bits 63:8 zero, so that its opcode is the whole of it. -/

namespace Sys2Proof.Laws.ZeroField

/-- R90: bits 63:8 of the command's word are 0, and the word is its opcode, zero-extended. -/
def Statement (i : Instr) : Prop :=
  (encode i).extractLsb' 8 56 = 0#56 ∧ encode i = ((encode i).extractLsb' 0 8).setWidth 64

theorem rxts : Statement .rxts := ⟨by decide, by decide⟩
theorem fldts : Statement .fldts := ⟨by decide, by decide⟩
theorem ts2ns : Statement .ts2ns := ⟨by decide, by decide⟩
theorem diff : Statement .diff := ⟨by decide, by decide⟩
theorem addw : Statement .addw := ⟨by decide, by decide⟩
theorem tcorr : Statement .tcorr := ⟨by decide, by decide⟩
theorem supd : Statement .supd := ⟨by decide, by decide⟩
theorem proj : Statement .proj := ⟨by decide, by decide⟩
theorem refev : Statement .refev := ⟨by decide, by decide⟩
theorem peerev : Statement .peerev := ⟨by decide, by decide⟩

end Sys2Proof.Laws.ZeroField
end

