-- ==== Sys2Proof/Tests/Slice0.lean ====
section
/-! SUPPORT. Tests of the model, and for every obligation with hypotheses a state that meets them.
Expected values of the `test_` theorems come from spec/95_test_vectors.md or from the rule named. -/

open Sys2Proof Sys2Proof.Machine

namespace Sys2Proof.Tests

/-! ## Small states -/

/-- Reset with operands and a time of flight. -/
def ops (a b tof : Int) : State := { State.reset with a := narrow a, b := narrow b, tof := narrow tof }

/-- Those operands with a model of `n` observations. -/
def synced (n : Nat) (ts tm rnum rden a b : Int) : State :=
  { ops a b 0 with
    n := BitVec.ofNat 32 n
    ts := narrow ts
    tm := narrow tm
    rnum := narrow rnum
    rden := narrow rden }

/-- Code and `RES` after a command. -/
def result (i : Instr) (s : State) : Option (Code × Int) :=
  match exec i s with
  | .next t => some (t.status.last, sint t.res)
  | _ => none

/-- Code and model (`N`, `TS`, `TM`, `RNUM`, `RDEN`) after a command. -/
def modelAfter (i : Instr) (s : State) : Option (Code × Nat × Int × Int × Int × Int) :=
  match exec i s with
  | .next t => some (t.status.last, t.n.toNat, sint t.ts, sint t.tm, sint t.rnum, sint t.rden)
  | _ => none

/-- The response of the step that runs one transaction. -/
def response (t : Txn) (s : State) : Option Response :=
  match step (s.setPending [.txn t]) with
  | .next s' => s'.rsp
  | _ => none

/-! ## Well-formedness refuses -/

theorem test_wf_txn_size : (Txn.read 0x10#8 4#4).wf = false := by decide
theorem test_wf_txn_alignment : (Txn.write 0x0C#8 8#4 0#64).wf = false := by decide
theorem test_wf_txn_range : (Txn.read 0x60#8 8#4).wf = false := by decide
theorem test_wf_txn_good : (Txn.write 0x58#8 8#4 0#64).wf = true := by decide
theorem test_wf_value_low : (Stmt.wr .a (-2 ^ 63 - 1)).wf = false := by decide
theorem test_wf_value_high : (Stmt.peer (2 ^ 64)).wf = false := by decide
theorem test_wf_op1 : (Stmt.op1 .diff 0).wf = false := by decide
theorem test_wf_op2 : (Stmt.op2 .rxts 0 0).wf = false := by decide
theorem test_wf_good : (Stmt.op2 .supd (-2 ^ 63) (2 ^ 64 - 1)).wf = true := by decide

/-! ## Decoding: the words of R92 written out bit by bit -/

theorem test_decode_rxts :
    decode 0b0000000000000000000000000000000000000000000000000000000000000001#64 = .ok .rxts := by decide
theorem test_decode_fldts :
    decode 0b0000000000000000000000000000000000000000000000000000000000000010#64 = .ok .fldts := by decide
theorem test_decode_ts2ns :
    decode 0b0000000000000000000000000000000000000000000000000000000000000011#64 = .ok .ts2ns := by decide
theorem test_decode_diff :
    decode 0b0000000000000000000000000000000000000000000000000000000000010000#64 = .ok .diff := by decide
theorem test_decode_addw :
    decode 0b0000000000000000000000000000000000000000000000000000000000010001#64 = .ok .addw := by decide
theorem test_decode_tcorr :
    decode 0b0000000000000000000000000000000000000000000000000000000000010010#64 = .ok .tcorr := by decide
theorem test_decode_supd :
    decode 0b0000000000000000000000000000000000000000000000000000000000100000#64 = .ok .supd := by decide
theorem test_decode_proj :
    decode 0b0000000000000000000000000000000000000000000000000000000000100001#64 = .ok .proj := by decide
theorem test_decode_refev :
    decode 0b0000000000000000000000000000000000000000000000000000000000100010#64 = .ok .refev := by decide
theorem test_decode_peerev :
    decode 0b0000000000000000000000000000000000000000000000000000000000100011#64 = .ok .peerev := by decide
/-- R94: the all-zero word, a word between two opcodes, and words with a bit set above bit 7. -/
theorem test_decode_refuses :
    decode 0x0000000000000000#64 = .error .noSuchOpcode
    ∧ decode 0x0000000000000004#64 = .error .noSuchOpcode
    ∧ decode 0x0000000000000101#64 = .error .zeroField
    ∧ decode 0x8000000000000022#64 = .error .zeroField
    ∧ decodeBytes [0x01#8] = .error .notEightBytes := by decide
/-- R68, R92: the lanes of the PEEREV word, the lowest byte first. -/
theorem test_encode_bytes :
    encodeBytes .peerev = [0x23#8, 0#8, 0#8, 0#8, 0#8, 0#8, 0#8, 0#8] := by decide
theorem test_table_word :
    decodeTableWord 64 0x21 = some .proj ∧ decodeTableWord 64 0x121 = none
    ∧ decodeTableWord 8 0x20 = some .supd := by decide

/-! ## One step of each command, from 95_test_vectors.md Part 2 unless a script is named -/

theorem test_rxts : result .rxts (ops 0xFFFFFF123456789A 0 0) = some (.ok, 0x123456789A) := by decide
theorem test_rxts_upper : result .rxts (ops (2 ^ 40) 0 0) = some (.ok, 0) := by decide
theorem test_fldts : result .fldts (ops 0xAAAAAAAA12345678 0 0) = some (.ok, 78187493376) := by decide
theorem test_fldts_largest : result .fldts (ops 0xFFFFFFFF 0 0) = some (.ok, 1099511627520) := by decide
theorem test_ts2ns : result .ts2ns (ops 78187493376 0 0) = some (.ok, 1223637403) := by decide
theorem test_ts2ns_operand : result .ts2ns (ops (2 ^ 40) 0 0) = some (.operand, 0) := by decide
theorem test_diff_wraps : result .diff (ops 3 5 0) = some (.ok, 17207401024) := by decide
/-- R9: in an instance with the largest admitted period, `3 - 5 + P`. -/
theorem test_diff_other_period :
    result .diff { ops 3 5 0 with period := 2 ^ 62 - 1 } = some (.ok, 2 ^ 62 - 3) := by decide
theorem test_diff_operand : result .diff (ops 0 17207401026 0) = some (.operand, 0) := by decide
theorem test_addw_once : result .addw (ops 34414802052 17207401026 0) = some (.ok, 34414802052) := by decide
theorem test_addw_overflow : result .addw (ops (2 ^ 63 - 1) 1 0) = some (.overflow, 0) := by decide
theorem test_tcorr_wraps : result .tcorr (ops 50 7 100) = some (.ok, 17207400976) := by decide
theorem test_tcorr_operand : result .tcorr (ops (-1) 0 0) = some (.operand, 0) := by decide
theorem test_supd_ratio :
    modelAfter .supd (synced 1 17207400026 17207400526 0 0 1000 1540)
      = some (.ok, 2, 1000, 1540, 2040, 2000) := by decide
theorem test_supd_divzero :
    modelAfter .supd (synced 1 5 7 3 4 5 9) = some (.divzero, 1, 5, 7, 3, 4) := by decide
theorem test_proj_corrects :
    result .proj (synced 2 1000 1540 2040 2000 17207401025 0) = some (.ok, 344148539) := by decide
theorem test_proj_range :
    result .proj (synced 2 1 17207401025 17207401025 1 0 0) = some (.range, 0) := by decide
/-- Reset, `TOF = 1000`. -/
theorem test_refev_wraps :
    (modelAfter .refev (ops 100 0 1000)).map (fun r => (r.1, r.2.1, r.2.2.1, r.2.2.2.1))
      = some (.ok, 1, 1, 17207400026) := by decide
theorem test_refev_ratio :
    modelAfter .refev { synced 1 1 17207400026 0 0 639 1 with tof := 1000#64 }
      = some (.ok, 2, 10, 17207400030, 4, 9) := by decide
/-- Script P3, statement 6. -/
theorem test_peerev :
    result .peerev (synced 2 8402051 1088065789 12603325 12603077 0x10000000 0)
      = some (.ok, 1084203282) := by decide
theorem test_peerev_dropped : result .peerev (synced 1 5 7 0 0 1000 0) = some (.dropped, 0) := by decide

/-! ## The port, from scripts P1, P4 and section 2.2 -/

theorem test_wr_tof_largest : response (wrTxn .tof (narrow 17207401025)) State.reset = some .ok := by decide
theorem test_wr_tof_period : response (wrTxn .tof (narrow 17207401026)) State.reset = some .err := by decide
theorem test_rd_cmd : response (rdTxn .cmd) State.reset = some .err := by decide
theorem test_rd_p : response (rdTxn .p) State.reset = some (.data 0x0000000401A41A42#64) := by decide
/-- P4, statement 15. -/
theorem test_rd_status :
    response (rdTxn .status)
      { synced 2 0 0 0 1 0 0 with status := ⟨.ok, true, true, false, true, false⟩ }
      = some (.data 0x20B00#64) := by decide
/-- P1, statement 3: the first step after reset runs the word that stands next. -/
theorem test_fetch :
    (match step (State.reset.withFetchWord 64 0x20) with
      | .next s => some (s.n, s.rsp, s.pending.length)
      | _ => none) = some (1#32, some .ok, 0) := by decide
/-- R97: a peer script has two transactions. -/
theorem test_expand :
    expand (.peer 1000) = [.txn (.write 0x00#8 8#4 1000#64), .txn (.write 0x18#8 8#4 0x23#64)] := by decide

/-! ## Witnesses: for each obligation, states and operands that meet its hypotheses, one for each
clause, at the ends of the ranges -/

/-- The ends of the range of periods that R9 admits. -/
theorem test_admitted_ends : Config.Admitted 17207401026 ∧ Config.Admitted (2 ^ 62 - 1)
    ∧ ¬ Config.Admitted 17207401025 ∧ ¬ Config.Admitted (2 ^ 62) := by decide

/-- `P - 1`, the largest value of a time. -/
def top : Int := 17207401025

/-- A state in which events come next. -/
def next (es : List Event) : State := State.reset.setPending es

theorem witness_Ts2nsConvertsOrRefusesOperand :
    (ops (2 ^ 40 - 1) 0 0).a.toNat < 2 ^ 40 ∧ 2 ^ 40 ≤ (ops (2 ^ 40) 0 0).a.toNat := by decide
theorem witness_ConverterIsMonotonic :
    (ops 0 0 0).a.toNat ≤ (ops (2 ^ 40 - 1) 0 0).a.toNat ∧ (ops (2 ^ 40 - 1) 0 0).a.toNat < 2 ^ 40
    ∧ (ops 63 0 0).a.toNat < 64 := by decide
theorem witness_ConverterErrorBelowOneNanosecond : (ops (2 ^ 40 - 1) 0 0).a.toNat < 2 ^ 40 := by decide
/-- On either side of the smallest timestamp with the largest result. -/
theorem witness_ConverterReachesPeriodMinusOne :
    (ops 1099511627735 0 0).a.toNat < 2 ^ 40 ∧ (ops 1099511627736 0 0).a.toNat < 2 ^ 40 := by decide
theorem witness_DiffSubtractsModuloPeriod :
    Config.Admitted (ops 0 top 0).period ∧ (InPeriod Config.P (sint (ops 0 top 0).a) ∧ InPeriod Config.P (sint (ops 0 top 0).b))
    ∧ ¬ (InPeriod Config.P (sint (ops (top + 1) 0 0).a) ∧ InPeriod Config.P (sint (ops (top + 1) 0 0).b))
    ∧ ¬ (InPeriod Config.P (sint (ops 0 (-1) 0).a) ∧ InPeriod Config.P (sint (ops 0 (-1) 0).b)) := by
  decide
theorem witness_RolloverLaws :
    InPeriod 1 0 ∧ InPeriod Config.P 0 ∧ InPeriod Config.P top ∧ (0 : Int) ≠ top := by decide
theorem witness_AddwpMakesOneCorrection : (0 : Int) < 1 ∧ 0 < Config.P := by decide
theorem witness_AddwCorrectsOnceOrOverflows :
    Config.Admitted (ops (2 ^ 63 - 1) 0 0).period ∧ FitsI64 (sint (ops (2 ^ 63 - 1) 0 0).a + sint (ops (2 ^ 63 - 1) 0 0).b)
    ∧ FitsI64 (sint (ops (-2 ^ 63) 0 0).a + sint (ops (-2 ^ 63) 0 0).b)
    ∧ ¬ FitsI64 (sint (ops (2 ^ 63 - 1) 1 0).a + sint (ops (2 ^ 63 - 1) 1 0).b)
    ∧ ¬ FitsI64 (sint (ops (-2 ^ 63) (-1) 0).a + sint (ops (-2 ^ 63) (-1) 0).b) := by decide
theorem witness_TcorrSubtractsTimeOfFlight :
    Config.Admitted (ops 0 0 top).period ∧ (InPeriod Config.P (sint (ops 0 0 top).a) ∧ InPeriod Config.P (sint (ops 0 0 top).tof))
    ∧ ¬ InPeriod Config.P (sint (ops (top + 1) 0 top).a) := by decide

/-- The operands of `SUPD` in the period. -/
abbrev GoodPair (s : State) : Prop := InPeriod Config.P (sint s.a) ∧ InPeriod Config.P (sint s.b)

/-- The stored sample in the period. -/
abbrev GoodSample (s : State) : Prop := InPeriod Config.P (sint s.ts) ∧ InPeriod Config.P (sint s.tm)

/-- One clause each: an operand outside, `N = 0`, the stored time again, and the last count. -/
theorem witness_SupdUpdatesModel :
    Config.Admitted (synced 1 top 0 0 0 top 0).period ∧ ¬ GoodPair (ops (top + 1) 0 0) ∧ ¬ GoodPair (ops 0 (-1) 0)
    ∧ (GoodPair (ops 0 top 0) ∧ (ops 0 top 0).n.toNat = 0)
    ∧ (GoodPair (synced 1 top 0 0 0 top 0) ∧ 1 ≤ (synced 1 top 0 0 0 top 0).n.toNat
      ∧ GoodSample (synced 1 top 0 0 0 top 0)
      ∧ sint (synced 1 top 0 0 0 top 0).a = sint (synced 1 top 0 0 0 top 0).ts)
    ∧ (GoodPair (synced (2 ^ 32 - 1) top top 1 1 0 0) ∧ GoodSample (synced (2 ^ 32 - 1) top top 1 1 0 0)
      ∧ (synced (2 ^ 32 - 1) top top 1 1 0 0).n.toNat = 2 ^ 32 - 1
      ∧ sint (synced (2 ^ 32 - 1) top top 1 1 0 0).a ≠ sint (synced (2 ^ 32 - 1) top top 1 1 0 0).ts) := by
  decide

/-- A synchronized model at the ends of its ranges (P5): `TS = 1`, `TM` and `RNUM` the largest,
`RDEN = 1`. -/
def steep (a : Int) : State := synced 2 1 top top 1 a 0

/-- `N = 1`; an operand outside. -/
theorem witness_ProjProjectsOrDrops_stops :
    (synced 1 0 0 0 0 (-1) 0).n.toNat < 2
    ∧ 2 ≤ (steep (top + 1)).n.toNat ∧ ¬ InPeriod Config.P (sint (steep (top + 1)).a) := by decide
/-- A sum of `2P - 2` (`delta = 1`), and one of at least `2P` (`delta = 2`). -/
theorem witness_ProjProjectsOrDrops :
    (2 ≤ (steep 2).n.toNat ∧ (steep 2).RegsInv ∧ InPeriod (steep 2).period (sint (steep 2).a)
      ∧ ¬ sint (steep 2).a < sint (steep 2).ts ∧ top * 1 / 1 + top < 2 * (steep 2).period)
    ∧ (steep 3).RegsInv ∧ InPeriod (steep 3).period (sint (steep 3).a)
    ∧ 2 * (steep 3).period ≤ top * 2 / 1 + top := ⟨by decide, by decide⟩

/-- `TOF` at its largest, `N = 0`; the stored time again; another time at the last count. -/
theorem witness_RefevFeedsModel :
    Config.Admitted (ops 0 0 top).period ∧ (InPeriod Config.P (sint (ops 0 0 top).tof) ∧ (ops 0 0 top).n.toNat = 0)
    ∧ (GoodSample (synced 1 1 0 0 0 64 0) ∧ ((64 % 2 ^ 40 * 625 / 39936 : Nat) : Int) = sint (synced 1 1 0 0 0 64 0).ts)
    ∧ (GoodSample (synced (2 ^ 32 - 1) top top 1 1 64 0)
      ∧ ((64 % 2 ^ 40 * 625 / 39936 : Nat) : Int) ≠ sint (synced (2 ^ 32 - 1) top top 1 1 64 0).ts) := by
  decide

/-- `A = 192` ticks are 3 ns, `A = 128` ticks are 2 ns. -/
theorem witness_PeerevProjectsOrDrops :
    (synced 1 0 0 0 0 0 0).n.toNat < 2
    ∧ (2 ≤ (steep 128).n.toNat ∧ (steep 128).RegsInv
      ∧ ((128 % 2 ^ 40 * 625 / 39936 : Nat) : Int) = 2 ∧ top * 1 / 1 + top < 2 * Config.P)
    ∧ ((steep 192).RegsInv ∧ ((192 % 2 ^ 40 * 625 / 39936 : Nat) : Int) = 3
      ∧ 2 * Config.P ≤ top * 2 / 1 + top) := by decide
theorem witness_RefevEqualsItsSequence :
    Config.Admitted (ops 0 0 top).period ∧ InPeriod Config.P (sint (ops 0 0 top).tof) := by decide
/-- The second clause: `PEEREV` ends with `OK`. -/
theorem witness_PeerevEqualsItsSequence :
    Config.Admitted (steep 64).period ∧ result .peerev (steep 64) = some (.ok, top) := by decide
theorem witness_RatioIsExact :
    Config.Admitted (ops 0 0 0).period ∧ (ops 0 0 0).n.toNat = 0 ∧ InPeriod Config.P (sint 0#64) ∧ InPeriod Config.P (sint (narrow top))
    ∧ sint 0#64 < sint (narrow top) := by decide
/-- A sum too large, and a ratio of 1. -/
theorem witness_RangeRaisedExactlyWhenSumTooLarge :
    ((steep 3).RegsInv ∧ 2 ≤ (steep 3).n.toNat ∧ InPeriod Config.P (sint (steep 3).a))
    ∧ ((synced 2 top top 1 1 0 0).RegsInv ∧ InPeriod Config.P (sint (synced 2 top top 1 1 0 0).a)
      ∧ sint (synced 2 top top 1 1 0 0).rnum ≤ sint (synced 2 top top 1 1 0 0).rden) := by decide
theorem witness_ProjectionAtSampleReturnsTm :
    ((steep 1).RegsInv ∧ 2 ≤ (steep 1).n.toNat ∧ (steep 1).a = (steep 1).ts)
    ∧ ((synced 2 6 7 0 1 top 0).RegsInv ∧ (synced 2 6 7 0 1 top 0).rnum = 0#64
      ∧ InPeriod Config.P (sint (synced 2 6 7 0 1 top 0).a)) := by decide
/-- A command that counts and one that does not; a step that is no release of reset. -/
theorem witness_CounterCountsStoredObservations :
    (modelAfter .supd (synced (2 ^ 32 - 1) 5 7 1 1 6 9)).map (fun r => (r.1, r.2.1)) = some (.ok, 2 ^ 32 - 1)
    ∧ (modelAfter .supd (synced 1 5 7 0 0 5 9)).map (fun r => (r.1, r.2.1)) = some (.divzero, 1)
    ∧ step (next [.rst true]) = .next { State.reset with inReset := true }
    ∧ (next [.rst true]).pending.head? ≠ some (.rst false) := by
  refine ⟨by decide, by decide, rfl, by decide⟩

theorem witness_FaultsChangeOnlyStatus :
    runCommand 0x21#64 State.reset = .next (State.reset.complete .dropped)
    ∧ (State.reset.complete .dropped).status.last ≠ .ok := ⟨rfl, by decide⟩
/-- Each code, from a command word. -/
theorem witness_CodesComeFromTheirCommands :
    result .proj (ops 0 0 0) = some (.dropped, 0) ∧ result .ts2ns (ops (-1) 0 0) = some (.operand, 0)
    ∧ result .addw (ops (-2 ^ 63) (-1) 0) = some (.overflow, 0)
    ∧ result .supd (synced 1 5 7 0 0 5 9) = some (.divzero, 0)
    ∧ result .peerev (steep 192) = some (.range, 0) ∧ decode 0x24#64 = .error .noSuchOpcode := by decide
theorem witness_StickyFlagsOnlyResetClears :
    step (next [.rst true]) = .next { State.reset with inReset := true }
    ∧ (next [.rst true]).pending.head? ≠ some (.rst false)
    ∧ runCommand 0#64 State.reset = .next (State.reset.complete .illegal) := ⟨rfl, by decide, rfl⟩
/-- A fault, and an update that ends with `OK`. -/
theorem witness_CommandsLeaveOperandsAndBuffer :
    result .diff (ops 0 (-1) 0) = some (.operand, 0) ∧ result .supd (ops 0 top 0) = some (.ok, 0) := by
  decide

theorem witness_IllegalWordsChangeOnlyStatus :
    State.reset.inReset = false
    ∧ (next [.txn (.write 0x18#8 8#4 0x100000001#64)]).pending = [.txn (.write 0x18#8 8#4 0x100000001#64)]
    ∧ 0x100000001#64 ∉
      [0x01#64, 0x02#64, 0x03#64, 0x10#64, 0x11#64, 0x12#64, 0x20#64, 0x21#64, 0x22#64, 0x23#64] := by
  decide
theorem witness_StepRunsDecodedCommand :
    (next [.txn (.write 0x18#8 8#4 0x23#64)]).inReset = false
    ∧ (next [.txn (.write 0x18#8 8#4 0x23#64)]).pending = [.txn (.write 0x18#8 8#4 0x23#64)]
    ∧ decode 0x23#64 = .ok .peerev := by decide

/-- Reset, `N = 1` and `N = 2`, none in reset. -/
theorem witness_ReadReturnsRegister :
    State.reset.inReset = false
    ∧ (1 ≤ (synced 1 5 7 0 0 0 0).n.toNat ∧ (synced 1 5 7 0 0 0 0).inReset = false)
    ∧ (2 ≤ (steep 0).n.toNat ∧ (steep 0).inReset = false) := by decide
theorem witness_UnspecifiedReadIsFree :
    State.reset.inReset = false ∧ State.reset.n.toNat = 0
    ∧ (synced 1 5 7 0 0 0 0).inReset = false ∧ (synced 1 5 7 0 0 0 0).n.toNat < 2 := by decide
theorem witness_OperandWritesAccepted : State.reset.inReset = false := by decide
theorem witness_TofWriteChecksRange :
    State.reset.inReset = false
    ∧ (0 ≤ sint (narrow top) ∧ sint (narrow top) < Config.P)
    ∧ ¬ (0 ≤ sint (narrow (top + 1)) ∧ sint (narrow (top + 1)) < Config.P)
    ∧ ¬ (0 ≤ sint (narrow (-1)) ∧ sint (narrow (-1)) < Config.P) := by decide
/-- One transaction for each case of R63, and one of each kind that is none. -/
theorem witness_PortErrorsAreExactlyListed :
    State.reset.inReset = false
    ∧ response (.read 0x00#8 4#4) State.reset = some .err
    ∧ response (.read 0x04#8 8#4) State.reset = some .err
    ∧ response (.write 0x60#8 8#4 0#64) State.reset = some .err
    ∧ response (.read 0x18#8 8#4) State.reset = some .err
    ∧ response (.write 0x58#8 8#4 0#64) State.reset = some .err
    ∧ response (.read 0x38#8 8#4) State.reset = some (.data 0#64)
    ∧ response (.write 0x18#8 8#4 0#64) State.reset = some .ok := by decide
theorem witness_ReadsHaveNoSideEffect : State.reset.inReset = false := by decide
theorem witness_EveryTransactionCompletes : State.reset.inReset = false := by decide
theorem witness_ResetRestoresRegisters :
    (next [.rst true, .rst false]).pending = .rst true :: .rst false :: [] := by decide
theorem witness_PeriodIsConstant :
    exec .proj State.reset = .next (State.reset.complete .dropped)
    ∧ step (next [.rst false]) = .next State.reset := ⟨rfl, rfl⟩
theorem witness_TransactionDuringResetRefused : State.reset.assertReset.inReset = true := by decide

/-- A synchronized machine that has the invariant, with a projection to run. -/
def busy : State := (steep 3).setPending [.txn (cmdTxn .proj)]

theorem witness_EveryStepKeepsInvariant :
    busy.Inv ∧ step busy = .next (((steep 3).complete .range).respond .ok) := ⟨by decide, by rfl⟩
/-- A waiting host that has heard a frame of no bytes, with the reference identifier where the buffer
holds an identifier from an earlier frame. -/
def noBytes : State :=
  (next [.loop]).setHost { HostAgent.start with
    received := true
    phase := .wait
    buffer := [(Config.host.idOff, Config.host.refId.1), (Config.host.idOff + 1, Config.host.refId.2)] }

/-- A refusal of each kind: a transaction in reset; a Reference frame too short for its timestamp
field, whatever the host parameters are. -/
theorem witness_StepsNeverFault :
    (let s := (State.reset.assertReset).setPending [.txn (rdTxn .n)]; s.Inv ∧ step s = .refused .transactionDuringReset)
    ∧ noBytes.Inv ∧ step noBytes = .refused .fieldOutOfBounds := by
  refine ⟨⟨by decide, rfl⟩, ⟨(by decide : State.reset.RegsInv), ?_, ?_⟩, ?_⟩
  · simp [noBytes, State.setHost, Memory.wf]
  · intro a ha; exact absurd ha (Nat.not_lt_zero a)
  · simp [step, noBytes, next, handle, loopTurn, dispatchFrame, sourceId, HostAgent.bufferByte, Memory.fill,
      Memory.read, feedReference, fbRead, fieldBytes, HostAgent.readFrame, andThen, State.setHost,
      State.setPending, HostAgent.start]
/-- Two states that differ in an unspecified register, and read it. -/
theorem witness_UnspecifiedRegistersNeverInfluence :
    SameSpecified (next [.txn (rdTxn .ts)]) { next [.txn (rdTxn .ts)] with ts := 0#64 }
    ∧ next [.txn (rdTxn .ts)] ≠ { next [.txn (rdTxn .ts)] with ts := 0#64 } := by decide

/-! The host agent, with the parameters of a small instance. -/

/-- Frames of at most 12 bytes: sequence number at 0 (1 byte), identifier at 2, field at 4. -/
def cfg : HostConfig := ⟨12, (0x52#8, 0x45#8), 2, 0, 1, 4, 7⟩

/-- A host that waits, with a frame received and its timestamp. -/
def heard (bs : List Byte) (ts : BitVec 40) (s : State) : State :=
  s.setHost { HostAgent.start with received := true, rxBytes := bs, rxTs := ts, phase := .wait }

/-- P2, statements 2 to 4: the reference frame's field is 124800, the last of its bytes. -/
def refFrame : State := heard [9#8, 0#8, 0x52#8, 0x45#8, 0x80#8, 0xE7#8, 0x01#8, 0x00#8] 63897600#40 State.reset

/-- P2, statements 8 to 10: the peer frame, of the shortest length that holds its identifier. -/
def peerFrame : State := heard [11#8, 0#8, 0x41#8, 0x42#8] 255590400#40 (synced 2 3000000 2499666 2000000 2000000 0 0)

/-- What is left of a machine after `k` turns of the loop. -/
def turns (k : Nat) (s : State) : Host.Outcome State Fault Refusal :=
  match k with
  | 0 => .next s
  | j + 1 => andThen (loopTurn cfg s) (turns j)

/-- P2: `N = 1`, `TS = 1000000`, and with `TOF = 0` `TM = 500000`. -/
theorem test_reference_frame :
    (match turns 4 refFrame with
      | .next s => some (s.n, s.ts, s.tm, s.host.received)
      | _ => none) = some (1#32, 1000000#64, 500000#64, false) := by decide
/-- P2, statement 10 with R214. -/
theorem test_peer_frame :
    (match turns 6 peerFrame with
      | .next s => s.host.reports
      | _ => []) = [⟨[11#8], 3499666, 2, (0x41#8, 0x42#8)⟩] := by decide

theorem witness_CallbackSetsOneFlag :
    (next [.radio .timeout]).pending = .radio .timeout :: []
    ∧ (next [.radio .error]).pending = .radio .error :: []
    ∧ (next [.radio .transmitConfirmed]).pending = .radio .transmitConfirmed :: []
    ∧ (next [.radio (.received [] 0#40)]).pending = .radio (.received [] 0#40) :: [] := by decide
theorem witness_TimeoutLeavesBlockAlone :
    (let h : HostAgent := { HostAgent.start with timeout := true, phase := .wait }; h.phase = .wait ∧ h.received = false ∧ (h.timeout = true ∨ h.error = true))
    ∧ (let h : HostAgent := { HostAgent.start with error := true, phase := .wait }; h.phase = .wait ∧ h.received = false ∧ (h.timeout = true ∨ h.error = true)) := by decide
/-- One byte more than the capacity. -/
theorem witness_OversizedFrameDropped :
    (let s := heard (List.replicate 13 0#8) 0#40 State.reset; s.host.phase = .wait ∧ s.host.received = true ∧ cfg.cap < s.host.rxBytes.length) := by decide
/-- The last field inside the frame, and the first outside. -/
theorem witness_FieldReadIsLittleEndian :
    4 + 4 ≤ refFrame.host.rxBytes.length ∧ refFrame.host.rxBytes.length < 5 + 4 := by decide

/-- The buffer's content once the frame is read: the function that the statements call `byte`. -/
def content (s : State) (a : Nat) : Byte :=
  (s.host.rxBytes[a]?).getD ((s.host.buffer.read a).getD (Config.unwrittenByte a))

/-- A frame of no bytes over an earlier one that left the reference identifier: Reference, and too
short for its field. -/
def shortFrame : State :=
  { heard [] 0#40 State.reset with
    host := { (heard [] 0#40 State.reset).host with buffer := [(2, 0x52#8), (3, 0x45#8)] } }

/-- R208: a frame too short for an identifier is classified by the buffer's content. -/
theorem test_short_frame : loopTurn cfg shortFrame = .refused .fieldOutOfBounds := by rfl

/-- The peer frame, in a model whose projection is out of range (192 ticks are 3 ns). -/
def steepFrame : State := heard [11#8, 0#8, 0x41#8, 0x42#8] 192#40 (steep 0)

/-- A Reference frame with its field and one without, and a Peer frame. -/
theorem witness_EveryFrameIsReferenceOrPeer :
    (refFrame.host.phase = .wait ∧ refFrame.host.received = true ∧ refFrame.host.rxBytes.length ≤ cfg.cap
      ∧ (content refFrame cfg.idOff, content refFrame (cfg.idOff + 1)) = cfg.refId
      ∧ cfg.txtsOff + 4 ≤ refFrame.host.rxBytes.length)
    ∧ (shortFrame.host.phase = .wait ∧ shortFrame.host.received = true
      ∧ shortFrame.host.rxBytes.length ≤ cfg.cap
      ∧ (content shortFrame cfg.idOff, content shortFrame (cfg.idOff + 1)) = cfg.refId
      ∧ shortFrame.host.rxBytes.length < cfg.txtsOff + 4)
    ∧ (peerFrame.host.phase = .wait ∧ peerFrame.host.received = true
      ∧ peerFrame.host.rxBytes.length ≤ cfg.cap
      ∧ (content peerFrame cfg.idOff, content peerFrame (cfg.idOff + 1)) ≠ cfg.refId) := by decide
theorem witness_ReferenceFrameFeedsModel :
    refFrame.inReset = false ∧ refFrame.host.phase = .wait ∧ refFrame.host.received = true
    ∧ refFrame.host.rxBytes.length ≤ cfg.cap ∧ cfg.txtsOff + 4 ≤ refFrame.host.rxBytes.length
    ∧ (content refFrame cfg.idOff, content refFrame (cfg.idOff + 1)) = cfg.refId := by decide
theorem witness_PeerFrameIsReported :
    peerFrame.inReset = false ∧ peerFrame.host.phase = .wait ∧ peerFrame.host.received = true
    ∧ peerFrame.host.rxBytes.length ≤ cfg.cap
    ∧ (content peerFrame cfg.idOff, content peerFrame (cfg.idOff + 1)) ≠ cfg.refId
    ∧ result .peerev { peerFrame with a := BitVec.ofNat 64 peerFrame.host.rxTs.toNat }
      = some (.ok, 3499666) := by decide
/-- The peer frame with `N = 1`. -/
def earlyFrame : State := { peerFrame with n := 1#32 }

/-- `DROPPED`, and `RANGE`. -/
theorem witness_DroppedPeerFrameIsNotReported :
    (earlyFrame.inReset = false ∧ earlyFrame.host.phase = .wait ∧ earlyFrame.host.received = true
      ∧ earlyFrame.host.rxBytes.length ≤ cfg.cap
      ∧ (content earlyFrame cfg.idOff, content earlyFrame (cfg.idOff + 1)) ≠ cfg.refId
      ∧ result .peerev { earlyFrame with a := BitVec.ofNat 64 earlyFrame.host.rxTs.toNat }
        = some (.dropped, 0))
    ∧ (steepFrame.inReset = false ∧ steepFrame.host.phase = .wait ∧ steepFrame.host.received = true
      ∧ steepFrame.host.rxBytes.length ≤ cfg.cap
      ∧ (content steepFrame cfg.idOff, content steepFrame (cfg.idOff + 1)) ≠ cfg.refId
      ∧ result .peerev { steepFrame with a := BitVec.ofNat 64 steepFrame.host.rxTs.toNat }
        = some (.range, 0)) := by decide

end Sys2Proof.Tests
end

section
/-! The scope rules (spec/00_scope.md): the range of the converter, the constancy of the period, and
the values right after reset. -/

namespace Sys2Proof.Machine

/-! ## The converter's range -/

/-- `TS2NS` on a 40-bit operand delivers the converted time (R114). -/
theorem exec_ts2ns_of_lt {s : State} (h : s.a.toNat < 2 ^ 40) :
    exec .ts2ns s = .next ((s.setRes (narrow (ticks2ns s.a.toNat))).complete .ok) :=
  if_neg (Nat.not_le.mpr h)

/-- The period of this hardware is one that R9 admits. -/
theorem admitted_P : Config.Admitted Config.P := by decide

/-- A converted 40-bit timestamp is read back from its register. -/
theorem sint_narrow_ticks2ns {t : Nat} (h : t < 2 ^ 40) : sint (narrow (ticks2ns t)) = ticks2ns t :=
  sint_narrow_of_inPeriod admitted_P (ticks2ns_inPeriod admitted_P h)

/-- `1099511627736 = ceil((P - 1) * 39936 / 625)` is where the floor of R111 reaches `P - 1`
(95_test_vectors.md 2.1); that it goes no further is the range of the converter. -/
theorem ticks2ns_eq_P_sub_one_iff {t : Nat} (h : t < 2 ^ 40) :
    (ticks2ns t : Int) = Config.P - 1 ↔ 1099511627736 ≤ t := by
  have hlt : (ticks2ns t : Int) < Config.P := (ticks2ns_inPeriod admitted_P h).2
  have hle : 17207401025 ≤ ticks2ns t ↔ 17207401025 * 39936 ≤ t * 625 :=
    Nat.le_div_iff_mul_le (by decide)
  simp only [Config.P] at hlt ⊢
  omega

/-- Settles O6: the bound is that of `ticks2ns`, carried through the register. -/
theorem converterReachesPeriodMinusOne : Obligations.ConverterReachesPeriodMinusOne := by
  intro s h
  have hres : sint ((s.setRes (narrow (ticks2ns s.a.toNat))).complete .ok).res
      = ticks2ns s.a.toNat := sint_narrow_ticks2ns h
  refine ⟨_, exec_ts2ns_of_lt h, fun p hp => ?_, ?_⟩
  · rw [hres]; exact ticks2ns_inPeriod hp h
  · rw [hres]; exact ticks2ns_eq_P_sub_one_iff h

/-! ## The period is constant -/

/-- No command changes the period (R9, R44). -/
theorem exec_period {i : Instr} {s s' : State} (h : exec i s = .next s') :
    s'.period = s.period := by
  rcases exec_cases i s with ⟨_, _, e⟩ | ⟨_, _, _, e⟩ | ⟨_, _, _, _, _, e⟩ <;> rw [e] at h
  · cases h; rfl
  · cases h; rfl
  · cases h; rfl

/-- No command word changes the period, whether it encodes a command or not. -/
theorem runCommand_period {w : Word} {s s' : State} (h : runCommand w s = .next s') :
    s'.period = s.period := by
  rcases runCommand_cases w s with ⟨i, _, e⟩ | ⟨_, e⟩ <;> rw [e] at h
  · exact exec_period h
  · cases h; rfl

/-- No host read changes the period (R67). -/
theorem portRead_period (addr : BitVec 8) (size : BitVec 4) (s : State) :
    (portRead addr size s).period = s.period := by
  rcases portRead_cases addr size s with ⟨_, e⟩ | ⟨_, _, _, e⟩ | ⟨_, _, _, _, _, e⟩ <;> rw [e]
  · exact State.respond_period ..
  · exact State.respond_period ..
  · exact State.respond_period ..

/-- No host write changes the period: of the registers, only `CMD` lets it do more than store its
data, and that runs a command word (R32, R62). -/
theorem portWrite_period {addr : BitVec 8} {size : BitVec 4} {v : Word} {s s' : State}
    (h : portWrite addr size v s = .next s') : s'.period = s.period := by
  rcases portWrite_cases addr size v s with
    ⟨_, e⟩ | ⟨_, e⟩ | ⟨_, _, e⟩ | ⟨_, e⟩ | ⟨_, _, _, _, e⟩ <;> rw [e] at h
  case inr.inr.inr.inl =>
    obtain ⟨s1, hrun, hrsp⟩ := andThen_eq_next.mp h
    cases hrsp
    exact (State.respond_period ..).trans (runCommand_period hrun)
  all_goals cases h; rfl

/-- No transaction changes the period. -/
theorem transact_period {t : Txn} {s s' : State} (h : transact t s = .next s') :
    s'.period = s.period := by
  rcases transact_cases t s with ⟨_, e⟩ | ⟨_, addr, size, _, e⟩ | ⟨_, _, _, _, _, e⟩ <;> rw [e] at h
  · cases h
  · cases h; exact portRead_period addr size s
  · exact portWrite_period h

/-- No level of `rst` changes the period, the release included (R44, R230). -/
theorem resetInput_period (level : Bool) (s : State) :
    (resetInput level s).period = s.period := by
  rcases resetInput_cases level s with ⟨_, e⟩ | ⟨_, _, e⟩ | ⟨_, _, e⟩ <;> rw [e]
  · exact State.assertReset_period s
  · exact State.releaseReset_period s

/-- No turn of the Event Dispatch Loop changes the period. -/
theorem loopTurn_period {cfg : HostConfig} {s s' : State} (h : loopTurn cfg s = .next s') :
    s'.period = s.period := by
  rcases loopTurn_shape h with ⟨_, rfl⟩ | ⟨_, s1, hs1, _, rfl⟩
  · rfl
  · exact (State.setHost_period ..).trans (transact_period hs1)

/-- No event changes the period. -/
theorem handle_period {e : Event} {s s' : State} (h : handle e s = .next s') :
    s'.period = s.period := by
  cases e with
  | txn t => exact transact_period h
  | rst level => cases h; exact resetInput_period level s
  | radio r => cases h; rfl
  | loop => exact loopTurn_period h

/-- No step changes the period (R9, R44). -/
theorem step_period {s s' : State} (h : step s = .next s') : s'.period = s.period := by
  rcases step_cases s with ⟨_, e⟩ | ⟨_, rest, _, e⟩ <;> rw [e] at h
  · cases h; rfl
  · exact (handle_period h).trans (State.setPending_period s rest)

/-- Settles O42: one frame lemma per operation of the machine, from the commands up to the step. -/
theorem periodIsConstant : Obligations.PeriodIsConstant :=
  ⟨fun _ _ _ => exec_period, fun _ _ => step_period⟩

/-! ## The state right after reset -/

/-- No fault is recorded right after reset (R230). -/
theorem reset_noStickyFlag : State.reset.NoStickyFlag := ⟨rfl, rfl, rfl, rfl, rfl⟩

/-- Settles O41: a table of fixed values (R20, R230), each read off `State.reset`. -/
theorem resetStateValues : Obligations.ResetStateValues :=
  ⟨rfl, rfl, rfl, rfl, rfl, rfl, reset_noStickyFlag, rfl, rfl, admitted_P, rfl⟩

end Sys2Proof.Machine
end

section
/-! The state of the block (spec/10_state.md): the invariant of R43, the counter `N`, the sticky flags
and the `STATUS` word, what no command touches, and the address map of the port. -/

namespace Sys2Proof.Machine

/-! ## The STATUS word -/

/-- Codes 7 to 15 never appear in `LAST` (R180). -/
theorem Code.number_le (c : Code) : c.number ≤ 6 := by
  cases c <;> decide

/-- Each field of `STATUS` fits its place in the word (R26). -/
theorem statusFields_le (st : Status) (n : BitVec 32) :
    st.last.number ≤ 6 ∧ st.fIllegal.toNat ≤ 1 ∧ st.fOperand.toNat ≤ 1 ∧ st.fOverflow.toNat ≤ 1
      ∧ st.fDivzero.toNat ≤ 1 ∧ st.fRange.toNat ≤ 1 ∧ stateField n ≤ 2 :=
  ⟨st.last.number_le, Bool.toNat_le _, Bool.toNat_le _, Bool.toNat_le _, Bool.toNat_le _,
    Bool.toNat_le _, Nat.min_le_right ..⟩

/-- The word `STATUS` assembles is the sum of its fields at their places: it does not overflow. -/
theorem statusWord_toNat (st : Status) (n : BitVec 32) :
    (statusWord st n).toNat = st.last.number + 2 ^ 8 * st.fIllegal.toNat + 2 ^ 9 * st.fOperand.toNat
      + 2 ^ 10 * st.fOverflow.toNat + 2 ^ 11 * st.fDivzero.toNat + 2 ^ 12 * st.fRange.toNat
      + 2 ^ 16 * stateField n := by
  have hbounds := statusFields_le st n
  rw [statusWord, BitVec.toNat_ofNat]
  exact Nat.mod_eq_of_lt (by omega)

/-- A field of a word, as a number. -/
theorem toNat_field (w : Word) (lo len : Nat) :
    (w.extractLsb' lo len).toNat = w.toNat / 2 ^ lo % 2 ^ len := by
  rw [BitVec.extractLsb'_toNat, Nat.shiftRight_eq_div_pow]

/-- A bit of a word, from its number. -/
theorem getLsbD_of_toNat {w : Word} {k : Nat} {b : Bool} (h : w.toNat / 2 ^ k % 2 = b.toNat) :
    w.getLsbD k = b := by
  rw [BitVec.getLsbD, Nat.testBit_eq_decide_div_mod_eq, h]
  cases b <;> rfl

/-- What each field of the `STATUS` word holds, as a number (R26, R29, R30). -/
theorem statusWord_fields (st : Status) (n : BitVec 32) :
    (statusWord st n).toNat / 2 ^ 0 % 2 ^ 4 = st.last.number
    ∧ (statusWord st n).toNat / 2 ^ 4 % 2 ^ 4 = 0
    ∧ (statusWord st n).toNat / 2 ^ 8 % 2 = st.fIllegal.toNat
    ∧ (statusWord st n).toNat / 2 ^ 9 % 2 = st.fOperand.toNat
    ∧ (statusWord st n).toNat / 2 ^ 10 % 2 = st.fOverflow.toNat
    ∧ (statusWord st n).toNat / 2 ^ 11 % 2 = st.fDivzero.toNat
    ∧ (statusWord st n).toNat / 2 ^ 12 % 2 = st.fRange.toNat
    ∧ (statusWord st n).toNat / 2 ^ 13 % 2 ^ 3 = 0
    ∧ (statusWord st n).toNat / 2 ^ 16 % 2 ^ 2 = stateField n
    ∧ (statusWord st n).toNat / 2 ^ 18 % 2 ^ 46 = 0 := by
  have hbounds := statusFields_le st n
  rw [statusWord_toNat]
  refine ⟨?_, ?_, ?_, ?_, ?_, ?_, ?_, ?_, ?_, ?_⟩ <;> omega

/-- The `LAST` field of the word is the code's number. -/
theorem statusWord_last (st : Status) (n : BitVec 32) :
    ((statusWord st n).extractLsb' 0 4).toNat = st.last.number :=
  (toNat_field ..).trans (statusWord_fields st n).1

/-- The reserved bits of the word read as 0 (R30). -/
theorem statusWord_reservedClear (st : Status) (n : BitVec 32) : ReservedClear (statusWord st n) := by
  obtain ⟨_, h4, _, _, _, _, _, h13, _, h18⟩ := statusWord_fields st n
  exact ⟨BitVec.eq_of_toNat_eq ((toNat_field ..).trans h4),
    BitVec.eq_of_toNat_eq ((toNat_field ..).trans h13),
    BitVec.eq_of_toNat_eq ((toNat_field ..).trans h18)⟩

/-- Settles O26: the word is the sum of its fields, each read off by its place. -/
theorem statusWordHasItsFields : Obligations.StatusWordHasItsFields := by
  intro st n
  obtain ⟨_, _, h8, h9, h10, h11, h12, _, h16, _⟩ := statusWord_fields st n
  refine ⟨BitVec.eq_of_toNat_eq ((statusWord_last st n).trans ?_), getLsbD_of_toNat h8,
    getLsbD_of_toNat h9, getLsbD_of_toNat h10, getLsbD_of_toNat h11, getLsbD_of_toNat h12,
    (toNat_field ..).trans h16, statusWord_reservedClear st n⟩
  cases st.last <;> rfl

/-! ## What no command touches -/

/-- Every command completes: none faults and none is refused (R192). -/
theorem exec_completes (i : Instr) (s : State) : ∃ s', exec i s = .next s' := by
  rcases exec_cases i s with ⟨_, _, e⟩ | ⟨_, _, _, e⟩ | ⟨_, _, _, _, _, e⟩ <;> exact ⟨_, e⟩

/-- Settles O27: of the three ways a command can end, one writes `RES`, and no `SUPD` or
`REFEV` ends so. -/
theorem commandsLeaveOperandsAndBuffer : Obligations.CommandsLeaveOperandsAndBuffer := by
  intro i s s' h
  rcases exec_cases i s with ⟨c, _, e⟩ | ⟨hsupd, hrefev, v, e⟩ | ⟨_, x, y, u, v, e⟩ <;>
    (rw [e] at h; cases h)
  · exact ⟨rfl, rfl, rfl, rfl, rfl, rfl, rfl, rfl, rfl, fun _ => rfl, fun _ => rfl⟩
  · refine ⟨rfl, rfl, rfl, rfl, rfl, rfl, rfl, rfl, rfl, fun _ => rfl, ?_⟩
    rintro (hlast | hi | hi)
    · exact absurd rfl hlast
    · exact absurd hi hsupd
    · exact absurd hi hrefev
  · exact ⟨rfl, rfl, rfl, rfl, rfl, rfl, rfl, rfl, rfl, fun _ => rfl, fun _ => rfl⟩

/-! ## Transactions as steps -/

/-- Outside reset, a step whose next event is a write performs it on the state without that event. -/
theorem step_write {s : State} (hrst : s.inReset = false) (addr : BitVec 8) (size : BitVec 4)
    (v : Word) (rest : List Event) :
    step { s with pending := .txn (.write addr size v) :: rest }
      = portWrite addr size v (s.setPending rest) :=
  transact_write (s := s.setPending rest) hrst addr size v

/-- Outside reset, a step whose next event is a read performs it on the state without that event. -/
theorem step_read {s : State} (hrst : s.inReset = false) (addr : BitVec 8) (size : BitVec 4)
    (rest : List Event) :
    step { s with pending := .txn (.read addr size) :: rest }
      = .next (portRead addr size (s.setPending rest)) :=
  transact_read (s := s.setPending rest) hrst addr size

/-- A word that encodes a command runs it (R91). -/
theorem runCommand_of_decode {w : Word} {i : Instr} (h : decode w = .ok i) (s : State) :
    runCommand w s = exec i s := by
  simp only [runCommand, h]

/-- Settles O31: the write reaches `CMD`, the word its command, and the command completes. -/
theorem stepRunsDecodedCommand : Obligations.StepRunsDecodedCommand := by
  intro s w i rest hrst hpend hdec
  obtain ⟨t, ht⟩ := exec_completes i (s.setPending rest)
  refine ⟨t, ht, ?_⟩
  have hstep := step_write hrst 0x18#8 8#4 w rest
  rw [← hpend, portWrite_cmd, runCommand_of_decode hdec, ht] at hstep
  exact hstep

/-- Settles O34: the writes at the two operands' offsets. -/
theorem operandWritesAccepted : Obligations.OperandWritesAccepted := by
  intro s rest v hrst
  constructor
  · exact (step_write hrst ..).trans (portWrite_a v _)
  · exact (step_write hrst ..).trans (portWrite_b v _)

/-- A read at the offset of a register whose value is unspecified returns the next free value
(R232). -/
theorem portRead_unspecified {r : Reg} {s : State} (hu : unspecified s r = true) :
    portRead r.offset 8#4 s = s.countFreeRead.respond (.data (Config.freeRead s.freeReads)) := by
  simp [portRead, hu]

/-- A step that reads such a register, from any state outside reset. -/
theorem step_read_unspecified {s : State} {r : Reg} (rest : List Event) (hrst : s.inReset = false)
    (hu : unspecified s r = true) :
    step { s with pending := .txn (.read r.offset 8#4) :: rest } = .next { s with
      rsp := some (.data (Config.freeRead s.freeReads))
      freeReads := s.freeReads + 1
      pending := rest } := by
  have hread := portRead_unspecified (r := r) (s := s.setPending rest) (by cases r <;> exact hu)
  exact (step_read hrst ..).trans (congrArg _ hread)

/-- Settles O33: at each of the four offsets stands a register that is unspecified for the `N` at
hand. -/
theorem unspecifiedReadIsFree : Obligations.UnspecifiedReadIsFree := by
  rintro s rest addr hrst (⟨hn, rfl | rfl⟩ | ⟨hn, rfl | rfl⟩)
  · exact step_read_unspecified (r := .ts) rest hrst (decide_eq_true (Nat.lt_one_iff.mpr hn))
  · exact step_read_unspecified (r := .tm) rest hrst (decide_eq_true (Nat.lt_one_iff.mpr hn))
  · exact step_read_unspecified (r := .rnum) rest hrst (decide_eq_true hn)
  · exact step_read_unspecified (r := .rden) rest hrst (decide_eq_true hn)

/-! ## The address map -/

/-- One entry of the address map: it answers its register at that register's offset, and otherwise
what the entries below it answer. -/
theorem eq_offset_of_entry {addr k : BitVec 8} {q r : Reg} {below : Option Reg} (hk : k = q.offset)
    (hbelow : below = some r → addr = r.offset) :
    (if addr = k then some q else below) = some r → addr = r.offset := by
  split
  case isTrue haddr =>
    rintro ⟨⟩
    exact haddr.trans hk
  case isFalse => exact hbelow

/-- The address map finds a register at its own offset only (R20). -/
theorem ofOffset_eq_some_iff {addr : BitVec 8} {r : Reg} :
    Reg.ofOffset addr = some r ↔ addr = r.offset := by
  constructor
  · intro h
    revert h
    unfold Reg.ofOffset
    iterate 12 refine eq_offset_of_entry rfl ?_
    simp
  · rintro rfl
    cases r <;> rfl

/-- The offset of a register is mapped and a multiple of 8. -/
theorem offset_aligned (r : Reg) : r.offset.toNat % 8 = 0 ∧ r.offset.toNat < 0x60 := by
  cases r <;> decide

/-- Every mapped multiple of 8 is the offset of a register. -/
theorem exists_ofOffset_eq {addr : BitVec 8} (halign : addr.toNat % 8 = 0) (hmap : addr.toNat < 0x60) :
    ∃ r, Reg.ofOffset addr = some r := by
  obtain ⟨k, hk⟩ : ∃ k, addr.toNat = 8 * k := ⟨addr.toNat / 8, by omega⟩
  have haddr : addr = BitVec.ofNat 8 (8 * k) := by rw [← hk, BitVec.ofNat_toNat, BitVec.setWidth_eq]
  have hlt : k < 12 := by omega
  subst haddr
  interval_cases k <;> exact ⟨_, rfl⟩

/-- The address map finds none where the offset is unmapped or no multiple of 8 (R60, R63). -/
theorem ofOffset_eq_none_iff {addr : BitVec 8} :
    Reg.ofOffset addr = none ↔ addr.toNat % 8 ≠ 0 ∨ 0x60 ≤ addr.toNat := by
  constructor
  · intro h
    by_contra hc
    obtain ⟨r, hr⟩ := exists_ofOffset_eq (addr := addr) (by omega) (by omega)
    simp [h] at hr
  · intro h
    cases hr : Reg.ofOffset addr with
    | none => rfl
    | some r =>
      have := offset_aligned r
      rw [← ofOffset_eq_some_iff.mp hr] at this
      omega

/-- At 8 bytes the port has the address map's register. -/
theorem portReg_eight (addr : BitVec 8) : portReg addr 8#4 = Reg.ofOffset addr := rfl

/-- Settles O39: the address map is the inverse of the offsets, and its `none` is what R69 excludes. -/
theorem addressMapIsOneToOne : Obligations.AddressMapIsOneToOne := by
  intro r addr
  refine ⟨ofOffset_eq_some_iff, ofOffset_eq_none_iff, ?_⟩
  rw [Bool.eq_iff_iff, portReg_eight, Option.isSome_iff_ne_none, Ne, ofOffset_eq_none_iff]
  simp [Txn.wf, Txn.wfAt]

/-! ## The frame buffer -/

/-- A read finds the first cell of its address. -/
theorem Memory.read_cons (c : Host.Cell) (cs : Memory) (b : Nat) :
    Memory.read (c :: cs) b = if b = c.1 then some c.2 else Memory.read cs b := by
  simp only [Memory.read, eq_comm]

/-- A byte written is read back, and every other address reads as before (R60(b)). -/
theorem Memory.read_write (m : Memory) (a b : Nat) (v : Byte) :
    (m.write a v).read b = if b = a then some v else m.read b := by
  induction m with
  | nil => exact Memory.read_cons ..
  | cons c cs ih =>
    unfold Memory.write
    split
    case isTrue => exact Memory.read_cons ..
    case isFalse =>
      split
      case isTrue heq =>
        rw [Memory.read_cons, Memory.read_cons, ← heq]
        by_cases hb : b = a <;> simp [hb]
      case isFalse hne =>
        rw [Memory.read_cons, Memory.read_cons, ih]
        by_cases hb : b = c.1
        · simp [hb, Ne.symm hne]
        · simp [hb]

/-- Bytes written from `a` on are read back, and every other address reads as before. -/
theorem Memory.read_fill (m : Memory) (a b : Nat) (bs : List Byte) :
    (m.fill a bs).read b = if a ≤ b ∧ b < a + bs.length then bs[b - a]? else m.read b := by
  induction bs generalizing m a with
  | nil => exact (if_neg (by simp)).symm
  | cons x xs ih =>
    rw [Memory.fill, ih, Memory.read_write, List.length_cons]
    rcases Nat.lt_trichotomy b a with hb | rfl | hb
    · rw [if_neg (by omega), if_neg (by omega), if_neg (by omega)]
    · rw [if_neg (by omega), if_pos rfl, if_pos (by omega), Nat.sub_self, List.getElem?_cons_zero]
    · obtain ⟨d, rfl⟩ : ∃ d, b = a + 1 + d := ⟨b - (a + 1), by omega⟩
      have hshift : a + 1 + d - a = d + 1 := by omega
      rw [if_neg (c := _ = a) (by omega), hshift, List.getElem?_cons_succ, Nat.add_sub_cancel_left]
      exact if_congr (by omega) rfl rfl

/-- Once a frame is read, the buffer is canonical and holds every byte of it (log 11). -/
theorem readFrame_bufferInv {s : State} (h : s.BufferInv) : (s.setHost s.host.readFrame).BufferInv := by
  refine ⟨Memory.fill_wf 0 s.host.rxBytes h.1, fun a ha => ?_⟩
  have hlen : a < s.host.rxBytes.length := ha
  simp [HostAgent.readFrame, Memory.read_fill, hlen]

/-! ## What a step can do to the registers of the invariant -/

/-- `s` with everything but the registers that R43 speaks of at its reset value: two states with the
same model part agree on those registers. -/
def State.modelPart (s : State) : State :=
  { State.reset with
    period := s.period
    status := s.status
    tof := s.tof
    n := s.n
    ts := s.ts
    tm := s.tm
    rnum := s.rnum
    rden := s.rden }

/-! What two states with the same model part agree on, field by field. -/

theorem period_eq_of_modelPart {s t : State} (h : s.modelPart = t.modelPart) : s.period = t.period := by
  have hfield := congrArg State.period h
  exact hfield

theorem status_eq_of_modelPart {s t : State} (h : s.modelPart = t.modelPart) : s.status = t.status := by
  have hfield := congrArg State.status h
  exact hfield

theorem n_eq_of_modelPart {s t : State} (h : s.modelPart = t.modelPart) : s.n = t.n := by
  have hfield := congrArg State.n h
  exact hfield

/-- What can happen to the model part between two states: nothing, a write of `TOF` in its range, or a
command word. -/
inductive ModelMove (s s' : State) : Prop where
  | keeps (h : s'.modelPart = s.modelPart)
  | setsTof (v : Word) (hv : InPeriod s.period (sint v)) (h : s'.modelPart = (s.setTof v).modelPart)
  | runs (w : Word) (s₁ s₂ : State) (hbefore : s₁.modelPart = s.modelPart)
      (hrun : runCommand w s₁ = .next s₂) (hafter : s'.modelPart = s₂.modelPart)

/-- A move depends on the model parts alone. -/
theorem ModelMove.congr {s s' t t' : State} (h : ModelMove t t') (hs : t.modelPart = s.modelPart)
    (hs' : s'.modelPart = t'.modelPart) : ModelMove s s' := by
  cases h with
  | keeps h => exact .keeps (hs'.trans (h.trans hs))
  | setsTof v hv h =>
    have htof : (t.setTof v).modelPart = (s.setTof v).modelPart := congrArg (State.setTof · v) hs
    exact .setsTof v (period_eq_of_modelPart hs ▸ hv) (hs'.trans (h.trans htof))
  | runs w s₁ s₂ hbefore hrun hafter =>
    exact .runs w s₁ s₂ (hbefore.trans hs) hrun (hs'.trans hafter)

/-- A host read moves nothing of the model part (R67). -/
theorem portRead_modelPart (addr : BitVec 8) (size : BitVec 4) (s : State) :
    (portRead addr size s).modelPart = s.modelPart := by
  rcases portRead_cases addr size s with ⟨_, e⟩ | ⟨_, _, _, e⟩ | ⟨_, _, _, _, _, e⟩ <;> rw [e] <;> rfl

/-- What a host write can do to the model part (R62, R66). -/
theorem portWrite_move {addr : BitVec 8} {size : BitVec 4} {v : Word} {s s' : State}
    (h : portWrite addr size v s = .next s') : ModelMove s s' := by
  rcases portWrite_cases addr size v s with
    ⟨_, e⟩ | ⟨_, e⟩ | ⟨_, hv, e⟩ | ⟨_, e⟩ | ⟨_, _, _, _, e⟩ <;> rw [e] at h
  · cases h; exact .keeps rfl
  · cases h; exact .keeps rfl
  · cases h; exact .setsTof v hv rfl
  · obtain ⟨s₂, hrun, hrsp⟩ := andThen_eq_next.mp h
    cases hrsp
    exact .runs v s s₂ rfl hrun rfl
  · cases h; exact .keeps rfl

/-- What a transaction can do to the model part. -/
theorem transact_move {t : Txn} {s s' : State} (h : transact t s = .next s') : ModelMove s s' := by
  rcases transact_cases t s with ⟨_, e⟩ | ⟨_, addr, size, _, e⟩ | ⟨_, _, _, _, _, e⟩ <;> rw [e] at h
  · cases h
  · cases h; exact .keeps (portRead_modelPart addr size s)
  · exact portWrite_move h

/-- What a turn of the host's loop can do to the model part: what its transaction does, if it issues
one. -/
theorem loopTurn_move {cfg : HostConfig} {s s' : State} (h : loopTurn cfg s = .next s') :
    ModelMove s s' := by
  rcases loopTurn_shape h with ⟨_, rfl⟩ | ⟨_, _, htxn, _, rfl⟩
  · exact .keeps rfl
  · exact (transact_move htxn).congr rfl rfl

/-- What an event can do to the model part: a move, or the release of reset. -/
theorem handle_move {e : Event} {s s' : State} (h : handle e s = .next s') :
    ModelMove s s' ∨ e = .rst false ∧ s' = s.releaseReset := by
  cases e with
  | txn t => exact .inl (transact_move h)
  | rst level =>
    rcases resetInput_cases level s with ⟨_, e⟩ | ⟨rfl, _, e⟩ | ⟨_, _, e⟩ <;> cases h <;> rw [e]
    · exact .inl (.keeps rfl)
    · exact .inr ⟨rfl, rfl⟩
    · exact .inl (.keeps rfl)
  | radio r => cases h; exact .inl (.keeps rfl)
  | loop => exact .inl (loopTurn_move h)

/-- What a step can do to the model part: a move, or the release of reset. -/
theorem step_move {s s' : State} (h : step s = .next s') :
    ModelMove s s'
    ∨ s.pending.head? = some (.rst false) ∧ s'.modelPart = s.releaseReset.modelPart := by
  rcases step_cases s with ⟨_, e⟩ | ⟨_, rest, hpend, e⟩ <;> rw [e] at h
  · cases h; exact .inl (.keeps rfl)
  · rcases handle_move h with hmove | ⟨rfl, rfl⟩
    · exact .inl (hmove.congr rfl rfl)
    · exact .inr ⟨by rw [hpend]; rfl, rfl⟩

/-- What a step whose event is no low level of `rst` can do to the model part. -/
theorem step_move_of_head {s s' : State} (h : step s = .next s')
    (hhead : s.pending.head? ≠ some (.rst false)) : ModelMove s s' :=
  (step_move h).resolve_right fun hrel => hhead hrel.1

/-! ## The counter -/

/-- What a command does to `N` (R33, R152). -/
theorem exec_n {i : Instr} {s s' : State} (h : exec i s = .next s') :
    s'.n.toNat = if (i = .supd ∨ i = .refev) ∧ s'.status.last = .ok
      then min (s.n.toNat + 1) (2 ^ 32 - 1) else s.n.toNat := by
  rcases exec_cases i s with ⟨c, hc, e⟩ | ⟨hsupd, hrefev, v, e⟩ | ⟨hi, x, y, u, v, e⟩ <;>
    (rw [e] at h; cases h)
  · exact (if_neg fun hok => hc hok.2).symm
  · exact (if_neg fun hok => hok.1.elim hsupd hrefev).symm
  · rw [if_pos ⟨hi, rfl⟩]; exact countUp_toNat s.n

/-- No command word makes `N` smaller. -/
theorem runCommand_n_le {w : Word} {s s' : State} (h : runCommand w s = .next s') :
    s.n.toNat ≤ s'.n.toNat := by
  rcases runCommand_cases w s with ⟨i, _, e⟩ | ⟨_, e⟩ <;> rw [e] at h
  · rw [exec_n h]
    split
    · have := s.n.isLt; omega
    · exact le_rfl
  · cases h; exact le_rfl

/-- No move makes `N` smaller. -/
theorem ModelMove.n_le {s s' : State} (h : ModelMove s s') : s.n.toNat ≤ s'.n.toNat := by
  cases h with
  | keeps h => rw [n_eq_of_modelPart h]
  | setsTof v _ h => rw [n_eq_of_modelPart h, State.setTof_n]
  | runs w s₁ s₂ hbefore hrun hafter =>
    rw [← n_eq_of_modelPart hbefore, n_eq_of_modelPart hafter]
    exact runCommand_n_le hrun

/-- Settles O21: a command's effect on `N`, and that no move of the model part lowers it. -/
theorem counterCountsStoredObservations : Obligations.CounterCountsStoredObservations :=
  ⟨fun _ _ _ => exec_n, fun _ _ h hhead => (step_move_of_head h hhead).n_le⟩

/-! ## The sticky flags -/

/-- Every sticky flag set in `st` is set in `st'`. -/
def Status.FlagsLe (st st' : Status) : Prop :=
  (st.fIllegal = true → st'.fIllegal = true)
  ∧ (st.fOperand = true → st'.fOperand = true)
  ∧ (st.fOverflow = true → st'.fOverflow = true)
  ∧ (st.fDivzero = true → st'.fDivzero = true)
  ∧ (st.fRange = true → st'.fRange = true)

/-- The flags of equal statuses. -/
theorem Status.FlagsLe.of_eq {st st' : Status} (h : st' = st) : st.FlagsLe st' :=
  h ▸ ⟨id, id, id, id, id⟩

/-- `complete` clears no flag (R28, R181). -/
theorem Status.flagsLe_record (st : Status) (c : Code) : st.FlagsLe (st.record c) := by
  refine ⟨?_, ?_, ?_, ?_, ?_⟩ <;> (intro h; simp [h])

/-- The end `f` of a command does not depend on the flags it starts from: it records the same code on
them, in the same state but for `STATUS`. -/
def StatusBlind (f : Status → Host.Outcome State Fault Refusal) : Prop :=
  ∃ (c : Code) (t : State), ∀ st, f st = .next { t with status := st.record c }

/-- `complete` records its code on whatever flags stand (R181). -/
theorem statusBlind_complete (c : Code) (s : State) :
    StatusBlind fun st => complete c { s with status := st } := ⟨c, s, fun _ => rfl⟩

/-- So does the end of a value-producing command (R23). -/
theorem statusBlind_deliver (v : Word) (s : State) :
    StatusBlind fun st => deliver v { s with status := st } := ⟨.ok, s.setRes v, fun _ => rfl⟩

/-- A test that does not look at the flags. -/
theorem StatusBlind.ite (p : Prop) [Decidable p] {f g : Status → Host.Outcome State Fault Refusal}
    (hf : StatusBlind f) (hg : StatusBlind g) : StatusBlind fun st => if p then f st else g st := by
  by_cases hp : p
  · simpa only [if_pos hp] using hf
  · simpa only [if_neg hp] using hg

/-- The model update looks at `N` and the stored sample, not at the flags (R152). -/
theorem statusBlind_supd (r m : Int) (s : State) :
    StatusBlind fun st => supd r m { s with status := st } :=
  .ite (s.n.toNat = 0) (statusBlind_complete .ok (s.setSample (narrow r) (narrow m) 1#32))
    (.ite (diffP s.period r (sint s.ts) = 0) (statusBlind_complete .divzero s)
      (statusBlind_complete .ok ((s.setRatio (narrow (diffP s.period m (sint s.tm)))
        (narrow (diffP s.period r (sint s.ts)))).setSample (narrow r) (narrow m) (countUp s.n))))

/-- The projection looks at the stored sample and ratio, not at the flags (R156). -/
theorem statusBlind_project (t : Int) (s : State) :
    StatusBlind fun st => project t { s with status := st } := by
  have hsum (st : Status) : projectionSum t { s with status := st } = projectionSum t s := rfl
  simp only [project, hsum]
  exact .ite _ (statusBlind_deliver _ s)
    (.ite _ (statusBlind_deliver _ s) (statusBlind_complete .range s))

/-- No command reads a sticky flag (R28). -/
theorem statusBlind_exec (i : Instr) (s : State) :
    StatusBlind fun st => exec i { s with status := st } := by
  cases i with
  | rxts => exact statusBlind_deliver ((ticksOf s.a).setWidth 64) s
  | fldts => exact statusBlind_deliver (narrow (field2ts (fieldOf s.a))) s
  | ts2ns =>
    simp only [exec, execTs2ns]
    exact .ite _ (statusBlind_complete .operand s) (statusBlind_deliver _ s)
  | diff =>
    simp only [exec, execDiff]
    exact .ite _ (statusBlind_deliver _ s) (statusBlind_complete .operand s)
  | addw =>
    simp only [exec, execAddw]
    exact .ite _ (statusBlind_deliver _ s) (statusBlind_complete .overflow s)
  | tcorr =>
    simp only [exec, execTcorr]
    exact .ite _ (statusBlind_deliver _ s) (statusBlind_complete .operand s)
  | supd =>
    simp only [exec, execSupd]
    exact .ite _ (statusBlind_supd _ _ s) (statusBlind_complete .operand s)
  | proj =>
    simp only [exec, execProj]
    exact .ite _ (statusBlind_complete .dropped s)
      (.ite _ (statusBlind_project _ s) (statusBlind_complete .operand s))
  | refev =>
    simp only [exec, execRefev]
    exact statusBlind_supd _ _ s
  | peerev =>
    simp only [exec, execPeerev]
    exact .ite _ (statusBlind_complete .dropped s) (statusBlind_project _ s)

/-- No command word reads a sticky flag, whether it encodes a command or not. -/
theorem statusBlind_runCommand (w : Word) (s : State) :
    StatusBlind fun st => runCommand w { s with status := st } := by
  unfold runCommand
  cases decode w with
  | ok i => exact statusBlind_exec i s
  | error _ => exact statusBlind_complete .illegal s

/-- The same word on other flags does the same, and leaves those flags plus what it sets. -/
theorem runCommand_withStatus {w : Word} {s s' : State} (st : Status)
    (h : runCommand w s = .next s') :
    runCommand w { s with status := st } = .next { s' with status := st.record s'.status.last } := by
  obtain ⟨c, t, ht⟩ := statusBlind_runCommand w s
  have hown := (ht s.status).symm.trans h
  cases hown
  exact ht st

/-- A command word records its code and clears no flag. -/
theorem runCommand_flagsLe {w : Word} {s s' : State} (h : runCommand w s = .next s') :
    s.status.FlagsLe s'.status := by
  obtain ⟨c, t, ht⟩ := statusBlind_runCommand w s
  have hown := (ht s.status).symm.trans h
  cases hown
  exact s.status.flagsLe_record _

/-- No move clears a flag. -/
theorem ModelMove.flagsLe {s s' : State} (h : ModelMove s s') : s.status.FlagsLe s'.status := by
  cases h with
  | keeps h => exact .of_eq (status_eq_of_modelPart h)
  | setsTof v _ h => exact .of_eq ((status_eq_of_modelPart h).trans (State.setTof_status s v))
  | runs w s₁ s₂ hbefore hrun hafter =>
    rw [← status_eq_of_modelPart hbefore, status_eq_of_modelPart hafter]
    exact runCommand_flagsLe hrun

/-- Settles O25: no move of the model part clears a flag, and every command word is blind to them. -/
theorem stickyFlagsOnlyResetClears : Obligations.StickyFlagsOnlyResetClears :=
  ⟨fun _ _ h hhead => (step_move_of_head h hhead).flagsLe,
    fun _ _ _ st h => runCommand_withStatus st h⟩

/-! ## The invariant of the registers -/

/-- R43 is of the period, `TOF` and the model: its clauses on `N` and `STATUS` hold in every state,
by how the two are stored. -/
theorem State.regsInv_iff (s : State) :
    s.RegsInv ↔ Config.Admitted s.period ∧ InPeriod s.period (sint s.tof)
      ∧ (1 ≤ s.n.toNat → InPeriod s.period (sint s.ts) ∧ InPeriod s.period (sint s.tm))
      ∧ (2 ≤ s.n.toNat →
          InPeriod s.period (sint s.rnum) ∧ 1 ≤ sint s.rden ∧ sint s.rden < s.period) := by
  have hn : (s.n.setWidth 64).toNat ≤ 2 ^ 32 - 1 := by
    rw [BitVec.toNat_setWidth_of_le (by decide)]
    exact Nat.le_sub_one_of_lt s.n.isLt
  have hlast : ((statusWord s.status s.n).extractLsb' 0 4).toNat ≤ 6 :=
    (statusWord_last s.status s.n).le.trans s.status.last.number_le
  constructor
  · rintro ⟨hperiod, htof, _, hsample, hratio, _, _⟩
    exact ⟨hperiod, htof, hsample, hratio⟩
  · rintro ⟨hperiod, htof, hsample, hratio⟩
    exact ⟨hperiod, htof, hn, hsample, hratio, statusWord_reservedClear .., hlast⟩

/-- The invariant of the registers is of the model part alone. -/
theorem regsInv_of_modelPart {s s' : State} (h : s'.modelPart = s.modelPart) (hs : s.RegsInv) :
    s'.RegsInv := by
  have hpart : s.modelPart.RegsInv := hs
  rw [← h] at hpart
  exact hpart

/-- A difference on the rollover clock is in the period (R130). -/
theorem diffP_inPeriod {p a b : Int} (ha : InPeriod p a) (hb : InPeriod p b) :
    InPeriod p (diffP p a b) := by
  obtain ⟨ha0, hap⟩ := ha
  obtain ⟨hb0, hbp⟩ := hb
  simp only [diffP]
  split <;> constructor <;> omega

/-- `complete` keeps the invariant. -/
theorem complete_regsInv {s : State} (c : Code) (hs : s.RegsInv) : (s.complete c).RegsInv :=
  (State.regsInv_iff _).mpr ((State.regsInv_iff s).mp hs)

/-- A stored sample in the period keeps the invariant, whatever `N` becomes, if the ratio is in range
where the new `N` says so. -/
theorem setSample_regsInv {s : State} {r m : Int} {n : BitVec 32} (hperiod : Config.Admitted s.period)
    (htof : InPeriod s.period (sint s.tof)) (hr : InPeriod s.period r) (hm : InPeriod s.period m)
    (hratio : 2 ≤ n.toNat →
      InPeriod s.period (sint s.rnum) ∧ 1 ≤ sint s.rden ∧ sint s.rden < s.period) :
    (s.setSample (narrow r) (narrow m) n).RegsInv := by
  refine (State.regsInv_iff _).mpr ⟨hperiod, htof, fun _ => ?_, hratio⟩
  simp only [State.setSample_ts, State.setSample_tm, State.setSample_period,
    sint_narrow_of_inPeriod hperiod hr, sint_narrow_of_inPeriod hperiod hm]
  exact ⟨hr, hm⟩

/-- An update by an observation in the period keeps the invariant: the first stores a sample, the next
ones also two differences on the rollover clock, of which `RDEN` is not 0 (R152, R154). -/
theorem supd_regsInv {r m : Int} {s s' : State} (hs : s.RegsInv) (hr : InPeriod s.period r)
    (hm : InPeriod s.period m) (h : supd r m s = .next s') : s'.RegsInv := by
  obtain ⟨hperiod, htof, hsample, _⟩ := (State.regsInv_iff s).mp hs
  rcases supd_cases r m s with ⟨_, e⟩ | ⟨_, _, e⟩ | ⟨hn, hne, e⟩ <;> (rw [e] at h; cases h)
  · exact complete_regsInv _ (setSample_regsInv hperiod htof hr hm fun h2 => absurd h2 (by decide))
  · exact complete_regsInv _ hs
  · obtain ⟨hts, htm⟩ := hsample hn
    have hnum := diffP_inPeriod hm htm
    have hden := diffP_inPeriod hr hts
    refine complete_regsInv _ (setSample_regsInv hperiod htof hr hm fun _ => ?_)
    simp only [State.setRatio_rnum, State.setRatio_rden, State.setRatio_period,
      sint_narrow_of_inPeriod hperiod hnum, sint_narrow_of_inPeriod hperiod hden]
    exact ⟨hnum, lt_of_le_of_ne hden.1 hne.symm, hden.2⟩

/-- Every command keeps the invariant; only `SUPD` and `REFEV` write a register it speaks of, and the
observation is in the period by `SUPD`'s check, or by `REFEV`'s conversion. -/
theorem exec_regsInv {i : Instr} {s s' : State} (hs : s.RegsInv) (h : exec i s = .next s') :
    s'.RegsInv := by
  rcases exec_cases i s with ⟨c, _, e⟩ | ⟨_, _, v, e⟩ | ⟨rfl | rfl, _⟩
  · rw [e] at h; cases h
    exact complete_regsInv c hs
  · rw [e] at h; cases h
    exact complete_regsInv .ok (regsInv_of_modelPart (s' := s.setRes v) rfl hs)
  · simp only [exec, execSupd] at h
    split at h
    case isTrue hab => exact supd_regsInv hs hab.1 hab.2 h
    case isFalse => cases h; exact complete_regsInv .operand hs
  · obtain ⟨hperiod, htof, _⟩ := (State.regsInv_iff s).mp hs
    exact supd_regsInv hs (ticks2ns_inPeriod hperiod (ticksOf s.a).isLt)
      (diffP_inPeriod (ticks2ns_inPeriod hperiod (field2ts_lt _)) htof) h

/-- Every command word keeps the invariant. -/
theorem runCommand_regsInv {w : Word} {s s' : State} (hs : s.RegsInv)
    (h : runCommand w s = .next s') : s'.RegsInv := by
  rcases runCommand_cases w s with ⟨_, _, e⟩ | ⟨_, e⟩ <;> rw [e] at h
  · exact exec_regsInv hs h
  · cases h; exact complete_regsInv .illegal hs

/-- Every move keeps the invariant; `TOF` by the check of its write (R66). -/
theorem ModelMove.regsInv {s s' : State} (h : ModelMove s s') (hs : s.RegsInv) : s'.RegsInv := by
  cases h with
  | keeps h => exact regsInv_of_modelPart h hs
  | setsTof v hv h =>
    obtain ⟨hperiod, _, hmodel⟩ := (State.regsInv_iff s).mp hs
    exact regsInv_of_modelPart h ((State.regsInv_iff _).mpr ⟨hperiod, hv, hmodel⟩)
  | runs w s₁ s₂ hbefore hrun hafter =>
    exact regsInv_of_modelPart hafter (runCommand_regsInv (regsInv_of_modelPart hbefore hs) hrun)

/-- With an admitted period, the reset values meet the invariant: `TOF` and `N` are 0 (R230). -/
theorem releaseReset_regsInv {s : State} (hperiod : Config.Admitted s.period) :
    s.releaseReset.RegsInv := by
  have htof : InPeriod s.period 0 := ⟨le_rfl, lt_of_lt_of_le (by decide) hperiod.1⟩
  exact (State.regsInv_iff _).mpr ⟨hperiod, htof, nofun, nofun⟩

/-- Every step keeps the invariant of the registers (R43). -/
theorem step_regsInv {s s' : State} (hs : s.RegsInv) (h : step s = .next s') : s'.RegsInv := by
  rcases step_move h with hmove | ⟨_, hrel⟩
  · exact hmove.regsInv hs
  · exact regsInv_of_modelPart hrel (releaseReset_regsInv hs.1)

/-! ## The invariant of the frame buffer -/

/-- No command word touches the host (R60). -/
theorem runCommand_host {w : Word} {s s' : State} (h : runCommand w s = .next s') :
    s'.host = s.host := by
  rcases runCommand_cases w s with ⟨i, _, e⟩ | ⟨_, e⟩ <;> rw [e] at h
  · obtain ⟨_, _, _, _, _, _, _, _, hhost, _⟩ := commandsLeaveOperandsAndBuffer i s s' h
    exact hhost
  · cases h; rfl

/-- No host read touches the host agent's own state. -/
theorem portRead_host (addr : BitVec 8) (size : BitVec 4) (s : State) :
    (portRead addr size s).host = s.host := by
  rcases portRead_cases addr size s with ⟨_, e⟩ | ⟨_, _, _, e⟩ | ⟨_, _, _, _, _, e⟩ <;> rw [e] <;> rfl

/-- No host write touches the host agent's own state. -/
theorem portWrite_host {addr : BitVec 8} {size : BitVec 4} {v : Word} {s s' : State}
    (h : portWrite addr size v s = .next s') : s'.host = s.host := by
  rcases portWrite_cases addr size v s with
    ⟨_, e⟩ | ⟨_, e⟩ | ⟨_, _, e⟩ | ⟨_, e⟩ | ⟨_, _, _, _, e⟩ <;> rw [e] at h
  case inr.inr.inr.inl =>
    obtain ⟨s₁, hrun, hrsp⟩ := andThen_eq_next.mp h
    cases hrsp
    exact (State.respond_host ..).trans (runCommand_host hrun)
  all_goals cases h; rfl

/-- No transaction touches the host (R60). -/
theorem transact_host {t : Txn} {s s' : State} (h : transact t s = .next s') :
    s'.host = s.host := by
  rcases transact_cases t s with ⟨_, e⟩ | ⟨_, addr, size, _, e⟩ | ⟨_, _, _, _, _, e⟩ <;> rw [e] at h
  · cases h
  · cases h; exact portRead_host addr size s
  · exact portWrite_host h

/-- The host's frame buffer after a transaction. -/
theorem transact_bufferInv {t : Txn} {s s' : State} (hs : s.BufferInv) (h : transact t s = .next s') :
    s'.BufferInv := by
  rw [State.BufferInv, transact_host h]
  exact hs

/-- A received frame that is not dropped is read into the buffer, and nothing else is written there. -/
theorem dispatchFrame_bufferInv {cfg : HostConfig} {s s' : State} (hs : s.BufferInv)
    (h : dispatchFrame cfg s = .next s') : s'.BufferInv := by
  rcases dispatchFrame_cases cfg s with ⟨_, e⟩ | ⟨_, _, e⟩ | ⟨_, _, e⟩ <;> rw [e] at h
  · cases h; exact hs
  · obtain ⟨_, _, hphase⟩ := andThen_eq_next.mp h
    cases hphase
    exact readFrame_bufferInv hs
  · cases h; exact readFrame_bufferInv hs

/-- What the loop does with its responses leaves the buffer alone. -/
theorem continueWith_bufferInv {s : State} (cfg : HostConfig) (k : After) (v : Option Word)
    (hs : s.BufferInv) : (continueWith cfg k v s).BufferInv := by
  unfold continueWith
  split
  · split <;> exact hs
  all_goals exact hs

/-- A turn of the loop keeps the invariant of the buffer. -/
theorem loopTurn_bufferInv {cfg : HostConfig} {s s' : State} (hs : s.BufferInv)
    (h : loopTurn cfg s = .next s') : s'.BufferInv := by
  unfold loopTurn at h
  split at h
  case h_1 => cases h; exact hs
  case h_2 =>
    split at h
    · exact dispatchFrame_bufferInv hs h
    · split at h <;> (cases h; exact hs)
  case h_3 t rest k _ =>
    obtain ⟨s₁, htxn, hnext⟩ := andThen_eq_next.mp h
    have hs₁ := transact_bufferInv hs htxn
    split at hnext <;> cases hnext
    · exact hs₁
    · exact continueWith_bufferInv cfg k _ hs₁
  case h_4 =>
    cases h
    unfold endIteration
    split <;> exact hs

/-- A radio callback leaves the buffer alone: the frame is the driver's until it is read (R211). -/
theorem callback_bufferInv {s : State} (r : RadioEvent) (hs : s.BufferInv) :
    (s.setHost (s.host.callback r)).BufferInv := by
  cases r <;> exact hs

/-- Every event keeps the invariant of the buffer. -/
theorem handle_bufferInv {e : Event} {s s' : State} (hs : s.BufferInv) (h : handle e s = .next s') :
    s'.BufferInv := by
  cases e with
  | txn t => exact transact_bufferInv hs h
  | rst level =>
    cases h
    rcases resetInput_cases level s with ⟨_, e⟩ | ⟨_, _, e⟩ | ⟨_, _, e⟩ <;> rw [e] <;> exact hs
  | radio r => cases h; exact callback_bufferInv r hs
  | loop => exact loopTurn_bufferInv hs h

/-- Every step keeps the invariant of the buffer. -/
theorem step_bufferInv {s s' : State} (hs : s.BufferInv) (h : step s = .next s') : s'.BufferInv := by
  rcases step_cases s with ⟨_, e⟩ | ⟨_, rest, _, e⟩ <;> rw [e] at h
  · cases h; exact hs
  · exact handle_bufferInv (s := s.setPending rest) hs h

/-! ## The invariant of the machine -/

/-- Settles O44: reset is its own release with this hardware's period, and the buffer is empty. -/
theorem invariantHoldsAtReset : Obligations.InvariantHoldsAtReset :=
  ⟨releaseReset_regsInv (s := State.reset) admitted_P, reset_buffer_wf, nofun⟩

/-- Settles O45: the step lemmas of the registers and of the frame buffer. -/
theorem everyStepKeepsInvariant : Obligations.EveryStepKeepsInvariant :=
  fun _ _ hs h => ⟨step_regsInv hs.1 h, step_bufferInv hs.2 h⟩

end Sys2Proof.Machine
end

section
/-! The memory rules (spec/20_memory.md): the transactions of the register port, their errors, and the
host's frame buffer. -/

namespace Sys2Proof.Machine

/-! ## The register a transaction addresses -/

/-- A transaction addresses a register exactly when it is of 8 bytes at that register's offset. -/
theorem portReg_eq_some_iff {addr : BitVec 8} {size : BitVec 4} {r : Reg} :
    portReg addr size = some r ↔ size = 8#4 ∧ addr = r.offset := by
  unfold portReg
  split
  case isTrue hsize => rw [ofOffset_eq_some_iff, and_iff_right hsize]
  case isFalse hsize => simp [hsize]

/-- A transaction addresses no register exactly when its size, its alignment or its offset is one of
the errors of R63. -/
theorem portReg_eq_none_iff {addr : BitVec 8} {size : BitVec 4} :
    portReg addr size = none ↔ size ≠ 8#4 ∨ addr.toNat % 8 ≠ 0 ∨ 0x60 ≤ addr.toNat := by
  unfold portReg
  split
  case isTrue hsize => rw [ofOffset_eq_none_iff, or_iff_right (not_not_intro hsize)]
  case isFalse hsize => exact iff_of_true rfl (.inl hsize)

/-! ## Reads -/

/-- A step that reads a register whose value is specified, from any state outside reset. -/
theorem step_read_specified {s : State} {r : Reg} {v : Word} (rest : List Event)
    (hrst : s.inReset = false) (hu : unspecified s r = false) (hv : regValue s r = some v) :
    step { s with pending := .txn (.read r.offset 8#4) :: rest }
      = .next { s with rsp := some (.data v), pending := rest } := by
  have hread := portRead_offset (r := r) (s := s.setPending rest) (v := v)
    (by cases r <;> exact hv) (by cases r <;> exact hu)
  exact (step_read hrst ..).trans (congrArg _ hread)

/-- Settles O32: at each of the listed offsets stands a readable register with the listed value,
specified for the `N` at hand. -/
theorem readReturnsRegister : Obligations.ReadReturnsRegister := by
  intro s rest hrst
  have hread {r : Reg} {v : Word} := step_read_specified (s := s) (r := r) (v := v) rest hrst
  have hsample (hn : 1 ≤ s.n.toNat) : decide (s.n.toNat < 1) = false := decide_eq_false (by omega)
  have hratio (hn : 2 ≤ s.n.toNat) : decide (s.n.toNat < 2) = false := decide_eq_false (by omega)
  simp only [List.forall_mem_cons, BitVec.ofNat_toNat]
  exact ⟨
    ⟨hread (r := .a) rfl rfl, hread (r := .b) rfl rfl, hread (r := .res) rfl rfl,
      hread (r := .status) rfl rfl, hread (r := .tof) rfl rfl, hread (r := .p) rfl rfl,
      hread (r := .n) rfl rfl, nofun⟩,
    fun hn => ⟨hread (r := .ts) (hsample hn) rfl, hread (r := .tm) (hsample hn) rfl, nofun⟩,
    fun hn => ⟨hread (r := .rnum) (hratio hn) rfl, hread (r := .rden) (hratio hn) rfl, nofun⟩⟩

/-- A host read leaves every field but the response and the count of free reads (R67). -/
theorem portRead_frame (addr : BitVec 8) (size : BitVec 4) (s : State) :
    portRead addr size s = { s with
      rsp := (portRead addr size s).rsp
      freeReads := (portRead addr size s).freeReads } := by
  rcases portRead_cases addr size s with ⟨_, e⟩ | ⟨_, _, _, e⟩ | ⟨_, _, _, _, _, e⟩ <;> rw [e] <;> rfl

/-- Settles O37: the step is the port's read, on the state without that event. -/
theorem readsHaveNoSideEffect : Obligations.ReadsHaveNoSideEffect :=
  fun s rest addr size hrst =>
    ⟨_, step_read hrst addr size rest, portRead_frame addr size (s.setPending rest)⟩

/-! ## Writes of `TOF` -/

/-- Settles O35: the two branches of the range check on the data. -/
theorem tofWriteChecksRange : Obligations.TofWriteChecksRange := by
  intro s rest v hrst
  have hstep := (step_write hrst 0x28#8 8#4 v rest).trans (portWrite_tof v _)
  constructor
  · intro hv
    exact hstep.trans (congrArg _ (if_pos hv))
  · intro hv
    exact hstep.trans (congrArg _ (if_neg hv))

/-! ## Port errors -/

/-- A read is answered `err` exactly where it addresses no register, or `CMD` (R63). -/
theorem portRead_err_iff (addr : BitVec 8) (size : BitVec 4) (s : State) :
    (portRead addr size s).rsp = some .err
      ↔ portReg addr size = none ∨ portReg addr size = some .cmd := by
  rcases portRead_cases addr size s with ⟨hreg, e⟩ | ⟨r, hreg, hu, e⟩ | ⟨r, v, hreg, _, hv, e⟩ <;>
    rw [e]
  · exact iff_of_true rfl hreg
  · have hr : r ≠ .cmd := by rintro rfl; cases hu
    simp [hreg, hr]
  · have hr : r ≠ .cmd := by rintro rfl; cases hv
    simp [hreg, hr]

/-- A read that is answered `err` changes nothing else. -/
theorem portRead_of_err {addr : BitVec 8} {size : BitVec 4} {s : State}
    (h : (portRead addr size s).rsp = some .err) : portRead addr size s = s.respond .err := by
  rcases portRead_cases addr size s with ⟨_, e⟩ | ⟨_, _, _, e⟩ | ⟨_, _, _, _, _, e⟩
  · exact e
  · rw [e] at h; cases h
  · rw [e] at h; cases h

/-- A write of `v` that the port refuses: to none of the registers that take any data, and to `TOF`
only where `v` is out of its range (R62, R63, R66). -/
def WriteRefused (period : Int) (v : Word) (reg : Option Reg) : Prop :=
  reg ≠ some .a ∧ reg ≠ some .b ∧ reg ≠ some .cmd
    ∧ (reg = some .tof → ¬ InPeriod period (sint v))

/-- Every command word completes (R192). -/
theorem runCommand_completes (w : Word) (s : State) : ∃ s', runCommand w s = .next s' := by
  rcases runCommand_cases w s with ⟨i, _, e⟩ | ⟨_, e⟩
  · exact e ▸ exec_completes i s
  · exact ⟨_, e⟩

/-- A write is answered `ok`, or is refused and then changes nothing but the response. -/
theorem portWrite_ok_or_err (addr : BitVec 8) (size : BitVec 4) (v : Word) (s : State) :
    (¬ WriteRefused s.period v (portReg addr size)
      ∧ ∃ t, portWrite addr size v s = .next t ∧ t.rsp = some .ok)
    ∨ (WriteRefused s.period v (portReg addr size)
      ∧ portWrite addr size v s = .next (s.respond .err)) := by
  rcases portWrite_cases addr size v s with
    ⟨hreg, e⟩ | ⟨hreg, e⟩ | ⟨hreg, hv, e⟩ | ⟨hreg, e⟩ | ⟨ha, hb, hcmd, htof, e⟩
  · exact .inl ⟨fun ⟨ha, _⟩ => ha hreg, _, e, rfl⟩
  · exact .inl ⟨fun ⟨_, hb, _⟩ => hb hreg, _, e, rfl⟩
  · exact .inl ⟨fun ⟨_, _, _, htof⟩ => htof hreg hv, _, e, rfl⟩
  · obtain ⟨t, ht⟩ := runCommand_completes v s
    exact .inl ⟨fun ⟨_, _, hcmd, _⟩ => hcmd hreg, t.respond .ok, by rw [e, ht, andThen_next], rfl⟩
  · exact .inr ⟨⟨ha, hb, hcmd, htof⟩, e⟩

/-- The refused registers by their offsets, as R63 lists them. -/
theorem writeRefused_some_iff {period : Int} {v : Word} {r : Reg} :
    WriteRefused period v (some r) ↔
      r.offset ∈ [0x10#8, 0x20#8, 0x30#8, 0x38#8, 0x40#8, 0x48#8, 0x50#8, 0x58#8]
      ∨ r.offset = 0x28#8 ∧ ¬ InPeriod period (sint v) := by
  cases r <;> simp [WriteRefused, Reg.offset]

/-- The refused writes are those of R63's list. -/
theorem writeRefused_portReg_iff {period : Int} {v : Word} {addr : BitVec 8} {size : BitVec 4} :
    WriteRefused period v (portReg addr size) ↔
      size ≠ 8#4 ∨ addr.toNat % 8 ≠ 0 ∨ 0x60 ≤ addr.toNat
      ∨ addr ∈ [0x10#8, 0x20#8, 0x30#8, 0x38#8, 0x40#8, 0x48#8, 0x50#8, 0x58#8]
      ∨ addr = 0x28#8 ∧ ¬ InPeriod period (sint v) := by
  cases hreg : portReg addr size with
  | none =>
    refine iff_of_true ⟨nofun, nofun, nofun, nofun⟩ ?_
    rcases portReg_eq_none_iff.mp hreg with hsize | halign | hrange
    · exact .inl hsize
    · exact .inr (.inl halign)
    · exact .inr (.inr (.inl hrange))
  | some r =>
    obtain ⟨rfl, rfl⟩ := portReg_eq_some_iff.mp hreg
    obtain ⟨halign, hmapped⟩ := offset_aligned r
    rw [writeRefused_some_iff, or_iff_right (not_not_intro rfl), or_iff_right (not_not_intro halign),
      or_iff_right (Nat.not_le.mpr hmapped)]

/-- Settles O36: a read fails at no register and at `CMD`; a write fails where it is refused. -/
theorem portErrorsAreExactlyListed : Obligations.PortErrorsAreExactlyListed := by
  intro s rest addr size v hrst
  constructor
  · refine ⟨_, step_read hrst addr size rest, ?_, portRead_of_err⟩
    rw [portRead_err_iff, portReg_eq_none_iff, portReg_eq_some_iff]
    change _ ∨ (_ ∧ addr = 0x18#8) ↔ _
    tauto
  · rw [step_write hrst, ← writeRefused_portReg_iff]
    rcases portWrite_ok_or_err addr size v (s.setPending rest) with ⟨hok, t, e, hrsp⟩ | ⟨herr, e⟩
    · exact ⟨t, e, iff_of_false (by simp [hrsp]) hok, by simp [hrsp]⟩
    · exact ⟨_, e, iff_of_true rfl herr, fun _ => rfl⟩

/-! ## The frame in the buffer -/

/-- Settles O52: the rules of a write and of a fill. -/
theorem bufferReadsLastWrite : Obligations.BufferReadsLastWrite :=
  ⟨Memory.read_write, Memory.read_fill⟩

/-- Bytes that stand at consecutive addresses are read together. -/
theorem Memory.readBytes_eq {m : Memory} {a : Nat} {bs : List Byte}
    (h : ∀ j < bs.length, m.read (a + j) = bs[j]?) : m.readBytes a bs.length = some bs := by
  induction bs generalizing a with
  | nil => rfl
  | cons x xs ih =>
    have hhead : m.read a = some x := h 0 (by simp)
    have htail : m.readBytes (a + 1) xs.length = some xs := by
      refine ih fun j hj => ?_
      rw [Nat.add_assoc, Nat.add_comm 1 j, h (j + 1) (by simpa using hj), List.getElem?_cons_succ]
    simp [Memory.readBytes, hhead, htail]

/-- With the frame in the buffer, a byte inside the frame reads as the frame's own (R71). -/
theorem readFrame_read {h : HostAgent} {a : Nat} (ha : a < h.rxBytes.length) :
    h.readFrame.buffer.read a = h.rxBytes[a]? := by
  simp [HostAgent.readFrame, Memory.read_fill, ha]

/-- With the frame in the buffer, the bytes of a field inside it are the frame's own. -/
theorem fieldBytes_readFrame {h : HostAgent} {off k : Nat} (hfield : off + k ≤ h.rxBytes.length) :
    fieldBytes h.readFrame off k = .next ((h.rxBytes.drop off).take k) := by
  have hlen : ((h.rxBytes.drop off).take k).length = k := by simp; omega
  have hread : h.readFrame.buffer.readBytes off k = some ((h.rxBytes.drop off).take k) := by
    conv_lhs => rw [← hlen]
    refine Memory.readBytes_eq fun j hj => ?_
    rw [readFrame_read (by omega), List.getElem?_take_of_lt (by omega), List.getElem?_drop]
  have hbound : off + k ≤ h.readFrame.frameLen := hfield
  simp [fieldBytes, hbound, hread]

/-- A field outside the frame's length is refused (R71, R215). -/
theorem fieldBytes_readFrame_refused {h : HostAgent} {off k : Nat}
    (hfield : h.rxBytes.length < off + k) :
    fieldBytes h.readFrame off k = .refused .fieldOutOfBounds :=
  if_neg (Nat.not_le.mpr hfield)

/-- The little-endian value of four bytes fits 32 bits (R70). -/
theorem leValue_four_toNat (b₀ b₁ b₂ b₃ : Byte) :
    (BitVec.ofNat 32 (leValue [b₀, b₁, b₂, b₃])).toNat
      = b₀.toNat + b₁.toNat * 2 ^ 8 + b₂.toNat * 2 ^ 16 + b₃.toNat * 2 ^ 24 := by
  have h₀ := b₀.isLt
  have h₁ := b₁.isLt
  have h₂ := b₂.isLt
  have h₃ := b₃.isLt
  simp only [leValue, BitVec.toNat_ofNat]
  omega

/-- Four bytes inside a list, one by one. -/
theorem take_four_drop {bs : List Byte} {off : Nat} (h : off + 4 ≤ bs.length) :
    (bs.drop off).take 4 = [bs[off], bs[off + 1], bs[off + 2], bs[off + 3]] := by
  rw [List.drop_eq_getElem_cons (by omega), List.drop_eq_getElem_cons (by omega),
    List.drop_eq_getElem_cons (by omega), List.drop_eq_getElem_cons (by omega)]
  rfl

/-- Settles O51: the four bytes of the field are the frame's own, and their value fits the word. -/
theorem fieldReadIsLittleEndian : Obligations.FieldReadIsLittleEndian := by
  intro h off
  constructor
  · intro hoff
    refine ⟨_, ?_, leValue_four_toNat ..⟩
    rw [fbRead, fieldBytes_readFrame hoff, andThen_next, take_four_drop hoff]
  · intro hoff
    rw [fbRead, fieldBytes_readFrame_refused hoff, andThen_refused]

end Sys2Proof.Machine
end

section
/-! The encoding rules (spec/30_encoding.md): the command words, their byte lanes, and what the
statements of a script stand for. -/

namespace Sys2Proof.Machine

/-! ## The command words -/

/-- Every command's word has the form `CMD64` (R90). -/
theorem encode_zeroField (i : Instr) : Laws.ZeroField.Statement i := by
  cases i with
  | rxts => exact Laws.ZeroField.rxts
  | fldts => exact Laws.ZeroField.fldts
  | ts2ns => exact Laws.ZeroField.ts2ns
  | diff => exact Laws.ZeroField.diff
  | addw => exact Laws.ZeroField.addw
  | tcorr => exact Laws.ZeroField.tcorr
  | supd => exact Laws.ZeroField.supd
  | proj => exact Laws.ZeroField.proj
  | refev => exact Laws.ZeroField.refev
  | peerev => exact Laws.ZeroField.peerev

/-- A word whose `zero` field is 0 is its opcode, zero-extended (R90). -/
theorem eq_opcode_setWidth {w : Word} (hzero : w.extractLsb' 8 56 = 0#56) :
    w = (w.extractLsb' 0 8).setWidth 64 := by
  have hhigh : w.toNat / 2 ^ 8 % 2 ^ 56 = 0 := by
    simpa [BitVec.extractLsb'_toNat, Nat.shiftRight_eq_div_pow] using congrArg BitVec.toNat hzero
  refine BitVec.eq_of_toNat_eq ?_
  simp only [BitVec.toNat_setWidth, BitVec.extractLsb'_toNat, Nat.shiftRight_zero]
  have hw := w.isLt
  omega

/-! ## The decoder -/

/-- The decoder refuses a word whose `zero` field is not 0, whatever its opcode (R91, R94). -/
theorem decode_of_zeroField_ne {w : Word} (h : w.extractLsb' 8 56 ≠ 0#56) :
    decode w = .error .zeroField :=
  if_pos h

/-- With the `zero` field 0 the opcode alone decides (R91). -/
theorem decode_of_zeroField_eq {w : Word} (h : w.extractLsb' 8 56 = 0#56) :
    decode w = decodeOp (w.extractLsb' 0 8) :=
  if_neg (not_not.mpr h)

/-- The opcode of a command's word names that command (R91, R92). -/
theorem decodeOp_encode (i : Instr) : decodeOp ((encode i).extractLsb' 0 8) = .ok i := by
  cases i <;> rfl

/-- An opcode that names a command is the low byte of that command's word (R91, R92). -/
theorem opcode_eq_of_decodeOp {op : BitVec 8} {i : Instr} (h : decodeOp op = .ok i) :
    op = (encode i).extractLsb' 0 8 := by
  unfold decodeOp at h
  split_ifs at h with hop hop hop hop hop hop hop hop hop hop
  all_goals
    cases h
    exact hop

/-- Decoding takes a command's word back to the command (R91, R92). -/
@[simp] theorem decode_encode (i : Instr) : decode (encode i) = .ok i := by
  obtain ⟨hzero, -⟩ := encode_zeroField i
  rw [decode_of_zeroField_eq hzero, decodeOp_encode]

/-- A word that decodes to a command is that command's word: its `zero` field is 0 and its opcode is
the command's, which is all of it (R90, R91, R94). -/
theorem eq_encode_of_decode {w : Word} {i : Instr} (h : decode w = .ok i) : w = encode i := by
  by_cases hzero : w.extractLsb' 8 56 = 0#56
  case neg =>
    rw [decode_of_zeroField_ne hzero] at h
    cases h
  case pos =>
    rw [decode_of_zeroField_eq hzero] at h
    obtain ⟨-, hencode⟩ := encode_zeroField i
    calc w = (w.extractLsb' 0 8).setWidth 64 := eq_opcode_setWidth hzero
      _ = ((encode i).extractLsb' 0 8).setWidth 64 := by rw [opcode_eq_of_decodeOp h]
      _ = encode i := hencode.symm

/-- The decoder answers a command exactly on its word. -/
theorem decode_eq_ok_iff {w : Word} {i : Instr} : decode w = .ok i ↔ w = encode i :=
  ⟨eq_encode_of_decode, fun h => h ▸ decode_encode i⟩

/-! ## The byte lanes -/

/-- Bytes that follow others weigh 256 times more for each byte before them. -/
theorem leValue_append (xs ys : List Byte) :
    leValue (xs ++ ys) = leValue xs + 256 ^ xs.length * leValue ys := by
  induction xs with
  | nil => simp [leValue]
  | cons x xs ih =>
    simp only [List.cons_append, leValue, ih, List.length_cons]
    ring

/-- A byte lane is a base-256 digit of the word (R68). -/
theorem lane_toNat (w : Word) (k : Nat) : (lane w k).toNat = w.toNat / 256 ^ k % 256 := by
  simp [lane, BitVec.extractLsb'_toNat, Nat.shiftRight_eq_div_pow, Nat.pow_mul]

/-- The lowest `n` byte lanes hold the word modulo `256 ^ n`. -/
theorem leValue_map_lane (w : Word) (n : Nat) :
    leValue ((List.range n).map (lane w)) = w.toNat % 256 ^ n := by
  induction n with
  | zero => simp [leValue, Nat.mod_one]
  | succ n ih =>
    rw [List.range_succ, List.map_append, leValue_append, ih, Nat.mod_pow_succ]
    simp [leValue, lane_toNat]

/-- The eight byte lanes together are the word (R68). -/
theorem leValue_lanes (w : Word) : leValue (lanes w) = w.toNat := by
  rw [lanes, leValue_map_lane]
  exact Nat.mod_eq_of_lt w.isLt

/-- The lanes of a word decode as the word does (R68). -/
@[simp] theorem decodeBytes_lanes (w : Word) : decodeBytes (lanes w) = decode w := by
  have hlength : (lanes w).length = 8 := by simp [lanes]
  rw [decodeBytes, if_pos hlength, leValue_lanes, BitVec.ofNat_toNat, BitVec.setWidth_eq]

/-! ## The obligations -/

/-- Settles O28, from the round trip of the word and the value of its byte lanes. -/
theorem decodeAnswersExactlyEncodedWords : Obligations.DecodeAnswersExactlyEncodedWords := by
  refine ⟨fun w i => decode_eq_ok_iff, decodeBytes_lanes, fun i => ⟨?_, ?_⟩⟩
  · cases i <;> rfl
  · rw [encodeBytes, decodeBytes_lanes, decode_encode]

/-- Settles O29: three words of the table, two words with the `zero` field 0 and no command's opcode,
and the `RXTS` word with a bit of the `zero` field set. -/
theorem sampleWordsDecode : Obligations.SampleWordsDecode := by
  refine ⟨decode_encode .rxts, decode_encode .addw, decode_encode .refev, ?_, ?_, ?_⟩
  · exact decode_of_zeroField_eq (by decide)
  · exact decode_of_zeroField_eq (by decide)
  · exact decode_of_zeroField_ne (by decide)

/-- Settles O57: each pseudo-statement's events are, by definition, those of its statements in
sequence. -/
theorem scriptStatementsExpand : Obligations.ScriptStatementsExpand :=
  fun _ _ _ _ => ⟨rfl, rfl, rfl, rfl, rfl, rfl, rfl, rfl, rfl⟩

end Sys2Proof.Machine
end

section
/-! The codec rules (spec/40_codec.md): what `RXTS`, `FLDTS` and `TS2NS` do to the whole state, and
the converter's order and error. -/

namespace Sys2Proof.Machine

/-! ## The state at the end of a codec command -/

/-- A command that delivers a value changes `RES` and `LAST` only: `OK` has no sticky flag (R181). -/
theorem setRes_complete_ok (v : Word) (s : State) :
    (s.setRes v).complete .ok = { s with res := v, status := { s.status with last := .ok } } := by
  simp [State.complete, State.setRes, Status.record]

/-- A command refused for its operand changes `LAST` and `F_OPERAND` only (R181). -/
theorem complete_operand (s : State) :
    s.complete .operand = { s with status := { s.status with last := .operand, fOperand := true } } := by
  simp [State.complete, Status.record]

/-- A natural number of 64 bits is read back from its register (R15, R16). -/
theorem toNat_narrow {n : Nat} (h : n < 2 ^ 64) : (narrow n).toNat = n := by
  rw [narrow, BitVec.ofInt_natCast, BitVec.toNat_ofNat, Nat.mod_eq_of_lt h]

/-- A field of a word is 0 when its number is. -/
theorem field_eq_zero {w : Word} {lo len : Nat} (h : w.toNat / 2 ^ lo % 2 ^ len = 0) :
    w.extractLsb' lo len = 0#len :=
  BitVec.eq_of_toNat_eq ((toNat_field ..).trans h)

/-! ## RXTS and FLDTS -/

/-- `A[39:0]`, zero-extended, is `A` modulo `2^40` (R73). -/
theorem ticksOf_setWidth (v : Word) :
    (ticksOf v).setWidth 64 = BitVec.ofNat 64 (v.toNat % 2 ^ 40) := by
  apply BitVec.eq_of_toNat_eq
  rw [ticksOf, BitVec.toNat_setWidth, toNat_field, BitVec.toNat_ofNat, pow_zero, Nat.div_one]

/-- The word `FLDTS` delivers holds the field of `A` times 256 (R110). -/
theorem narrow_field2ts_toNat (v : Word) :
    (narrow (field2ts (fieldOf v))).toNat = v.toNat % 2 ^ 32 * 256 := by
  have hlt := field2ts_lt (fieldOf v)
  rw [toNat_narrow (by omega), field2ts_eq, fieldOf, toNat_field, pow_zero, Nat.div_one]

/-- Settles O1: the word is a remainder, and the rest is what every delivered value leaves. -/
theorem rxtsMasksToFortyBits : Obligations.RxtsMasksToFortyBits := by
  refine ⟨decode_encode .rxts, fun s => ?_⟩
  calc exec .rxts s
      = .next ((s.setRes ((ticksOf s.a).setWidth 64)).complete .ok) := rfl
    _ = _ := by rw [setRes_complete_ok, ticksOf_setWidth]

/-- Settles O2: the zero bits are those of a multiple of 256 below `2^40`. -/
theorem fldtsShiftsField : Obligations.FldtsShiftsField := by
  refine ⟨decode_encode .fldts, fun s => ?_⟩
  have hv := narrow_field2ts_toNat s.a
  exact ⟨narrow (field2ts (fieldOf s.a)), hv, field_eq_zero (by omega), field_eq_zero (by omega),
    congrArg Host.Outcome.next (setRes_complete_ok ..)⟩

/-! ## TS2NS -/

/-- `TS2NS` on an operand of more than 40 bits stops with `OPERAND` (R114). -/
theorem exec_ts2ns_of_le {s : State} (h : 2 ^ 40 ≤ s.a.toNat) :
    exec .ts2ns s = .next (s.complete .operand) :=
  if_pos h

/-- The largest result of the converter is `P - 1` (R114). -/
theorem ticks2ns_le {t : Nat} (h : t < 2 ^ 40) : ticks2ns t ≤ 17207401025 := by
  have hlt : (ticks2ns t : Int) < Config.P := (ticks2ns_inPeriod admitted_P h).2
  rw [Config.P] at hlt
  omega

/-- The word of a converted 40-bit timestamp holds its nanoseconds. -/
theorem narrow_ticks2ns_toNat {t : Nat} (h : t < 2 ^ 40) : (narrow (ticks2ns t)).toNat = ticks2ns t :=
  toNat_narrow (by have := ticks2ns_le h; omega)

/-- On a 40-bit operand `TS2NS` leaves the converted time in `RES`. -/
theorem exec_ts2ns_res {s : State} (h : s.a.toNat < 2 ^ 40) :
    ∃ s', exec .ts2ns s = .next s' ∧ s'.res.toNat = ticks2ns s.a.toNat :=
  ⟨_, exec_ts2ns_of_lt h, narrow_ticks2ns_toNat h⟩

/-- The converter is monotonic, as a multiplication and a floor are (R115). -/
theorem ticks2ns_mono : Monotone ticks2ns :=
  fun _ _ h => Nat.div_le_div_right (Nat.mul_le_mul_right _ h)

/-- The floor of R111 in exact integers: `n * 39936 <= t * 625 < (n + 1) * 39936`. -/
theorem ticks2ns_floor (t : Nat) :
    ticks2ns t * 39936 ≤ t * 625 ∧ t * 625 < (ticks2ns t + 1) * 39936 :=
  ⟨Nat.div_mul_le_self .., Nat.lt_mul_of_div_lt (Nat.lt_succ_self _) (by decide)⟩

/-- Settles O3: the two branches of `TS2NS`. -/
theorem ts2nsConvertsOrRefusesOperand : Obligations.Ts2nsConvertsOrRefusesOperand := by
  refine ⟨decode_encode .ts2ns, fun s => ⟨fun h => ?_, fun h => ?_⟩⟩
  · have hv := narrow_ticks2ns_toNat h
    refine ⟨narrow (ticks2ns s.a.toNat), hv, hv.trans_le (ticks2ns_le h), ?_⟩
    rw [exec_ts2ns_of_lt h, setRes_complete_ok]
  · rw [exec_ts2ns_of_le h, complete_operand]

/-- Settles O4: the order is that of `ticks2ns`; the ticks 0 to 63 give 0 because
`63 * 625 < 39936`. -/
theorem converterIsMonotonic : Obligations.ConverterIsMonotonic := by
  refine ⟨fun s t hst ht => ?_, fun s h => ?_⟩
  · obtain ⟨s', hs', hsres⟩ := exec_ts2ns_res (hst.trans_lt ht)
    obtain ⟨t', ht', htres⟩ := exec_ts2ns_res ht
    refine ⟨s', t', hs', ht', ?_⟩
    rw [hsres, htres]
    exact ticks2ns_mono hst
  · obtain ⟨s', hs', hres⟩ := exec_ts2ns_res (s := s) (by omega)
    have hfloor := ticks2ns_floor s.a.toNat
    exact ⟨s', hs', by omega⟩

/-- Settles O5: the four bounds are those of the floor, divided by 39936 and by 625. -/
theorem converterErrorBelowOneNanosecond : Obligations.ConverterErrorBelowOneNanosecond := by
  intro s h
  obtain ⟨s', hs', hres⟩ := exec_ts2ns_res h
  obtain ⟨hle, hlt⟩ := ticks2ns_floor s.a.toNat
  rw [← hres] at hle hlt
  have hleQ : (s'.res.toNat : ℚ) * 39936 ≤ (s.a.toNat : ℚ) * 625 := mod_cast hle
  have hltQ : (s.a.toNat : ℚ) * 625 < ((s'.res.toNat : ℚ) + 1) * 39936 := mod_cast hlt
  refine ⟨s', hs', ?_, ?_, ?_, ?_⟩ <;> linarith

end Sys2Proof.Machine
end

section
/-! The rollover rules (spec/41_rollover.md): the laws of `diffP` and `addwP`, and what `DIFF`, `ADDW`
and `TCORR` do to the whole state. -/

namespace Sys2Proof.Machine

/-! ## The difference -/

/-- The wrap of R130 as a comparison of the operands. -/
theorem diffP_eq_ite (p a b : Int) : diffP p a b = if a < b then a - b + p else a - b := by
  simp only [diffP, sub_neg]

@[simp] theorem diffP_self (p a : Int) : diffP p a a = 0 := by
  rw [diffP_eq_ite, if_neg (lt_irrefl a), sub_self]

/-- Of two different operands, one of the two differences is negative and gets the `P` (R135). -/
theorem diffP_add_diffP_swap (p : Int) {a b : Int} (hne : a ≠ b) : diffP p a b + diffP p b a = p := by
  rw [diffP_eq_ite, diffP_eq_ite]
  rcases lt_or_gt_of_ne hne with hab | hba
  · rw [if_pos hab, if_neg hab.not_gt]; ring
  · rw [if_neg hba.not_gt, if_pos hba]; ring

/-- The wrap does not change the residue: it adds a period or nothing. -/
theorem diffP_emod (p a b : Int) : diffP p a b % p = (a - b) % p := by
  rw [diffP_eq_ite]
  split
  · exact Int.add_emod_right ..
  · rfl

/-- The rollover difference is the difference modulo `P` (R135). -/
theorem diffP_eq_emod {p a b : Int} (ha : InPeriod p a) (hb : InPeriod p b) :
    diffP p a b = (a - b) % p := by
  obtain ⟨hnonneg, hlt⟩ := diffP_inPeriod ha hb
  rw [← diffP_emod, Int.emod_eq_of_lt hnonneg hlt]

/-! ## The sum -/

/-- The three cases of R131, each with one correction at most. -/
theorem addwP_eq_ite (p a b : Int) :
    addwP p a b = if p ≤ a + b then a + b - p else if a + b < 0 then a + b + p else a + b := rfl

/-- One correction reaches `[0, P)` exactly from the sums less than one period away from it (R131).
For `p <= 0` neither side holds. -/
theorem addwP_inPeriod_iff {p a b : Int} :
    InPeriod p (addwP p a b) ↔ -p ≤ a + b ∧ a + b < 2 * p := by
  rw [addwP_eq_ite, InPeriod]
  split
  · omega
  · split <;> omega

/-- The correction does not change the residue: it takes or adds a period or nothing. -/
theorem addwP_emod (p a b : Int) : addwP p a b % p = (a + b) % p := by
  rw [addwP_eq_ite]
  split
  · exact Int.sub_emod_right ..
  · split
    · exact Int.add_emod_right ..
    · rfl

/-- On operands in `[0, P)` the once-corrected sum is the sum modulo `P` (R135). -/
theorem addwP_eq_emod {p a b : Int} (ha : InPeriod p a) (hb : InPeriod p b) :
    addwP p a b = (a + b) % p := by
  obtain ⟨ha0, hap⟩ := ha
  obtain ⟨hb0, hbp⟩ := hb
  obtain ⟨hnonneg, hlt⟩ : InPeriod p (addwP p a b) :=
    addwP_inPeriod_iff.mpr ⟨by omega, by omega⟩
  rw [← addwP_emod, Int.emod_eq_of_lt hnonneg hlt]

/-- Adding the subtrahend back recovers the minuend, as it does modulo `P` (R135). -/
theorem addwP_diffP {p a b : Int} (ha : InPeriod p a) (hb : InPeriod p b) :
    addwP p (diffP p a b) b = a :=
  calc addwP p (diffP p a b) b
      = ((a - b) % p + b) % p := by rw [addwP_eq_emod (diffP_inPeriod ha hb) hb, diffP_eq_emod ha hb]
    _ = a % p := by rw [Int.emod_add_emod, sub_add_cancel]
    _ = a := Int.emod_eq_of_lt ha.1 ha.2

/-- A correction moves the sum toward zero, so it fits 64 bits signed where the sum does (R133). -/
theorem addwP_fitsI64 {p a b : Int} (hp : Config.Admitted p) (h : FitsI64 (a + b)) :
    FitsI64 (addwP p a b) := by
  obtain ⟨hpos, hbound⟩ := hp
  obtain ⟨hlo, hhi⟩ := h
  rw [addwP_eq_ite]
  split
  · constructor <;> omega
  · split <;> constructor <;> omega

/-- Settles O8: both functions keep the residue, and in `[0, p)` the residue is the value. -/
theorem rolloverLaws : Obligations.RolloverLaws := fun p a _ ha hb =>
  ⟨diffP_inPeriod ha hb, diffP_self p a, diffP_add_diffP_swap p, diffP_eq_emod ha hb,
    addwP_eq_emod ha hb, addwP_diffP ha hb⟩

/-- Settles O9: by the three cases of R131; each side of the equivalence needs a positive period itself. -/
theorem addwpMakesOneCorrection : Obligations.AddwpMakesOneCorrection := fun p a b _ =>
  ⟨addwP_eq_ite p a b, addwP_inPeriod_iff⟩

/-! ## DIFF and TCORR -/

/-- A command that delivers the rollover difference of two values in the period: the word holds it,
and `RES` and `LAST` alone change. -/
theorem deliver_diffP {s : State} {a b : Int} (hp : Config.Admitted s.period)
    (ha : InPeriod s.period a) (hb : InPeriod s.period b) :
    ∃ v : Word, sint v = (if a < b then a - b + s.period else a - b) ∧ InPeriod s.period (sint v)
      ∧ deliver (narrow (diffP s.period a b)) s
        = .next { s with res := v, status := { s.status with last := .ok } } := by
  have hrange := diffP_inPeriod ha hb
  have hv := sint_narrow_of_inPeriod hp hrange
  refine ⟨narrow (diffP s.period a b), hv.trans (diffP_eq_ite ..), hv.symm ▸ hrange, ?_⟩
  rw [deliver_eq, setRes_complete_ok]

/-- A command that stops with `OPERAND` changes `LAST` and `F_OPERAND` alone. -/
theorem complete_operand_next (s : State) : complete .operand s
    = .next { s with status := { s.status with last := .operand, fOperand := true } } := by
  rw [complete_eq, complete_operand]

/-- `DIFF` on two operands in the period delivers their rollover difference (R132). -/
theorem exec_diff_of_inPeriod {s : State}
    (h : InPeriod s.period (sint s.a) ∧ InPeriod s.period (sint s.b)) :
    exec .diff s = deliver (narrow (diffP s.period (sint s.a) (sint s.b))) s :=
  if_pos h

/-- `DIFF` stops with `OPERAND` unless both operands are in the period (R132). -/
theorem exec_diff_of_not_inPeriod {s : State}
    (h : ¬ (InPeriod s.period (sint s.a) ∧ InPeriod s.period (sint s.b))) :
    exec .diff s = complete .operand s :=
  if_neg h

/-- `TCORR` on an operand in the period delivers its rollover difference to `TOF` (R134). -/
theorem exec_tcorr_of_inPeriod {s : State} (h : InPeriod s.period (sint s.a)) :
    exec .tcorr s = deliver (narrow (diffP s.period (sint s.a) (sint s.tof))) s :=
  if_pos h

/-- `TCORR` stops with `OPERAND` unless `A` is in the period (R134). -/
theorem exec_tcorr_of_not_inPeriod {s : State} (h : ¬ InPeriod s.period (sint s.a)) :
    exec .tcorr s = complete .operand s :=
  if_neg h

/-- Settles O7: the two branches of `DIFF`. -/
theorem diffSubtractsModuloPeriod : Obligations.DiffSubtractsModuloPeriod := by
  refine ⟨decode_encode .diff, fun s hp => ⟨fun h => ?_, fun h => ?_⟩⟩
  · rw [exec_diff_of_inPeriod h]
    exact deliver_diffP hp h.1 h.2
  · rw [exec_diff_of_not_inPeriod h]
    exact complete_operand_next s

/-- Settles O11: the two branches of `TCORR`; the second does not look at `TOF`. -/
theorem tcorrSubtractsTimeOfFlight : Obligations.TcorrSubtractsTimeOfFlight := by
  refine ⟨decode_encode .tcorr, fun s hp => ⟨fun ha htof => ?_, fun ha => ?_⟩⟩
  · rw [exec_tcorr_of_inPeriod ha]
    exact deliver_diffP hp ha htof
  · rw [exec_tcorr_of_not_inPeriod ha]
    exact complete_operand_next s

/-! ## ADDW -/

/-- `ADDW` delivers the once-corrected sum where the exact sum fits (R133). -/
theorem exec_addw_of_fits {s : State} (h : FitsI64 (sint s.a + sint s.b)) :
    exec .addw s = .next ((s.setRes (narrow (addwP s.period (sint s.a) (sint s.b)))).complete .ok) :=
  if_pos h

/-- `ADDW` stops with `OVERFLOW` where the exact sum does not fit (R133). -/
theorem exec_addw_of_not_fits {s : State} (h : ¬ FitsI64 (sint s.a + sint s.b)) :
    exec .addw s = .next (s.complete .overflow) :=
  if_neg h

/-- A command whose sum overflows changes `LAST` and `F_OVERFLOW` only (R181). -/
theorem complete_overflow (s : State) :
    s.complete .overflow
      = { s with status := { s.status with last := .overflow, fOverflow := true } } := by
  simp [State.complete, Status.record]

/-- Settles O10: the two branches of `ADDW`; the corrected sum fits, so `RES` holds it exactly. -/
theorem addwCorrectsOnceOrOverflows : Obligations.AddwCorrectsOnceOrOverflows := by
  refine ⟨decode_encode .addw, fun s hp => ⟨fun h => ?_, fun h => ?_⟩⟩
  · have hv := sint_narrow (addwP_fitsI64 hp h)
    refine ⟨narrow (addwP s.period (sint s.a) (sint s.b)), hv.trans (addwP_eq_ite ..), ?_⟩
    rw [exec_addw_of_fits h, setRes_complete_ok]
  · rw [exec_addw_of_not_fits h, complete_overflow]

end Sys2Proof.Machine
end

section
/-! The synchronization rules (spec/42_sync.md): the model update and the projection as `SUPD`, `PROJ`,
`REFEV` and `PEEREV` make them, and the sequences of commands that the last two stand for. -/

namespace Sys2Proof.Machine

/-! ## Endings -/

/-- The end of a command with `OK` changes `LAST` only (R181). -/
theorem complete_ok (s : State) :
    s.complete .ok = { s with status := { s.status with last := .ok } } := by
  simp [State.complete, Status.record]

/-- A dropped command changes `LAST` only: `DROPPED` has no sticky flag (R181, R187). -/
theorem complete_dropped (s : State) :
    s.complete .dropped = { s with status := { s.status with last := .dropped } } := by
  simp [State.complete, Status.record]

/-- An update with a zero interval changes `LAST` and `F_DIVZERO` only (R154, R181). -/
theorem complete_divzero (s : State) :
    s.complete .divzero = { s with status := { s.status with last := .divzero, fDivzero := true } } := by
  simp [State.complete, Status.record]

/-- A projection too large changes `LAST` and `F_RANGE` only (R156, R181). -/
theorem complete_range (s : State) :
    s.complete .range = { s with status := { s.status with last := .range, fRange := true } } := by
  simp [State.complete, Status.record]

/-! ## The model update -/

/-- In the period the rollover difference tells two values apart (R130). -/
theorem diffP_eq_zero_iff {p a b : Int} (ha : InPeriod p a) (hb : InPeriod p b) :
    diffP p a b = 0 ↔ a = b := by
  obtain ⟨ha0, -⟩ := ha
  obtain ⟨-, hbp⟩ := hb
  rw [diffP_eq_ite]
  split <;> omega

/-- The first observation is stored as it is (R152). -/
theorem supd_of_zero {s : State} (r m : Int) (hn : s.n.toNat = 0) :
    supd r m s = .next { s with
      ts := narrow r, tm := narrow m, n := 1#32, status := { s.status with last := .ok } } := by
  rw [supd, if_pos hn, complete_eq, complete_ok]
  rfl

/-- A second observation at the stored time is refused (R154). -/
theorem supd_of_same_time {s : State} (m : Int) (hn : 1 ≤ s.n.toNat) :
    supd (sint s.ts) m s =
      .next { s with status := { s.status with last := .divzero, fDivzero := true } } := by
  rw [supd, if_neg (by omega), if_pos (diffP_self ..), complete_eq, complete_divzero]

/-- An observation at another time stores the two differences to the old sample, and then itself
(R152). -/
theorem supd_of_new_time {s : State} {r m : Int} (hp : Config.Admitted s.period)
    (hr : InPeriod s.period r) (hm : InPeriod s.period m) (hn : 1 ≤ s.n.toNat)
    (hts : InPeriod s.period (sint s.ts)) (htm : InPeriod s.period (sint s.tm)) (hne : r ≠ sint s.ts) :
    ∃ num den : Word,
      sint num = (if m < sint s.tm then m - sint s.tm + s.period else m - sint s.tm)
      ∧ sint den = (if r < sint s.ts then r - sint s.ts + s.period else r - sint s.ts)
      ∧ supd r m s = .next { s with
          rnum := num, rden := den, ts := narrow r, tm := narrow m
          n := BitVec.ofNat 32 (min (s.n.toNat + 1) (2 ^ 32 - 1))
          status := { s.status with last := .ok } } := by
  have hden := (diffP_eq_zero_iff hr hts).not.mpr hne
  refine ⟨narrow (diffP s.period m (sint s.tm)), narrow (diffP s.period r (sint s.ts)), ?_, ?_, ?_⟩
  · rw [sint_narrow_of_inPeriod hp (diffP_inPeriod hm htm), diffP_eq_ite]
  · rw [sint_narrow_of_inPeriod hp (diffP_inPeriod hr hts), diffP_eq_ite]
  · rw [supd, if_neg (by omega), if_neg hden, complete_eq, complete_ok]
    rfl

/-! ## SUPD -/

/-- `SUPD` on operands in the period is the model update (R153). -/
theorem exec_supd_of_inPeriod {s : State} (ha : InPeriod s.period (sint s.a))
    (hb : InPeriod s.period (sint s.b)) : exec .supd s = supd (sint s.a) (sint s.b) s :=
  if_pos ⟨ha, hb⟩

/-- `SUPD` stops with `OPERAND` unless both operands are in the period, whatever `N` is (R153, R190). -/
theorem exec_supd_of_not_inPeriod {s : State}
    (h : ¬ (InPeriod s.period (sint s.a) ∧ InPeriod s.period (sint s.b))) :
    exec .supd s = complete .operand s :=
  if_neg h

/-- `SUPD` at `N = 0` moves its operands into the sample (R153). -/
theorem exec_supd_of_zero {s : State} (ha : InPeriod s.period (sint s.a))
    (hb : InPeriod s.period (sint s.b)) (hn : s.n.toNat = 0) :
    exec .supd s = .next { s with
      ts := s.a, tm := s.b, n := 1#32, status := { s.status with last := .ok } } := by
  rw [exec_supd_of_inPeriod ha hb, supd_of_zero _ _ hn, narrow_sint, narrow_sint]

/-- `SUPD` at another time than the stored one updates ratio and sample (R153). -/
theorem exec_supd_of_new_time {s : State} (hp : Config.Admitted s.period)
    (ha : InPeriod s.period (sint s.a)) (hb : InPeriod s.period (sint s.b)) (hn : 1 ≤ s.n.toNat)
    (hts : InPeriod s.period (sint s.ts)) (htm : InPeriod s.period (sint s.tm))
    (hne : sint s.a ≠ sint s.ts) :
    ∃ num den : Word,
      sint num = (if sint s.b < sint s.tm then sint s.b - sint s.tm + s.period
        else sint s.b - sint s.tm)
      ∧ sint den = (if sint s.a < sint s.ts then sint s.a - sint s.ts + s.period
        else sint s.a - sint s.ts)
      ∧ exec .supd s = .next { s with
          rnum := num, rden := den, ts := s.a, tm := s.b
          n := BitVec.ofNat 32 (min (s.n.toNat + 1) (2 ^ 32 - 1))
          status := { s.status with last := .ok } } := by
  rw [exec_supd_of_inPeriod ha hb]
  simpa only [narrow_sint] using supd_of_new_time hp ha hb hn hts htm hne

/-- Settles O12: the operand check, then the three cases of the model update. -/
theorem supdUpdatesModel : Obligations.SupdUpdatesModel := by
  refine ⟨decode_encode .supd, fun s hp => ⟨fun h => ?_, exec_supd_of_zero,
    fun ha hb hn hts htm => ⟨fun heq => ?_, exec_supd_of_new_time hp ha hb hn hts htm⟩⟩⟩
  · rw [exec_supd_of_not_inPeriod h, complete_operand_next]
  · rw [exec_supd_of_inPeriod ha hb, heq, supd_of_same_time _ hn]

/-- Settles O18: the first `SUPD` stores `(r1, m1)`, and the second takes its differences from that
sample; `r1 < r2` is a new time, and leaves the denominator without a wrap. -/
theorem ratioIsExact : Obligations.RatioIsExact := by
  intro s r1 m1 r2 m2 hp hn hr1 hm1 hr2 hm2 hlt
  obtain ⟨s1, hexec1, hperiod, hn1, hts, htm, hlast⟩ :
      ∃ s1, exec .supd { s with a := r1, b := m1 } = .next s1 ∧ s1.period = s.period ∧ s1.n = 1#32
        ∧ s1.ts = r1 ∧ s1.tm = m1 ∧ s1.status.last = .ok :=
    ⟨_, exec_supd_of_zero hr1 hm1 hn, rfl, rfl, rfl, rfl, rfl⟩
  subst hts htm
  rw [← hperiod] at hp hr1 hm1 hr2 hm2
  obtain ⟨num, den, hnum, hden, hexec2⟩ := exec_supd_of_new_time
    (s := { s1 with a := r2, b := m2 }) hp hr2 hm2 (hn1 ▸ le_rfl) hr1 hm1 hlt.ne'
  refine ⟨s1, _, hexec1, hexec2, hlast, rfl, ?_, ?_, ?_⟩
  · simp only [hn1]; rfl
  · exact hden.trans (if_neg hlt.not_gt)
  · rw [← hperiod, ← ite_not]; simpa only [not_le] using hnum

/-! ## REFEV -/

/-- The number of `A[39:0]`. -/
theorem ticksOf_toNat (v : Word) : (ticksOf v).toNat = v.toNat % 2 ^ 40 := by
  rw [ticksOf, toNat_field, pow_zero, Nat.div_one]

/-- The ticks of a timestamp field, as a number (R110). -/
theorem field2ts_fieldOf (v : Word) : field2ts (fieldOf v) = v.toNat % 2 ^ 32 * 256 := by
  rw [field2ts_eq, fieldOf, toNat_field, pow_zero, Nat.div_one]

/-- `REFEV` is the model update by the converted reception time and the corrected transmission time
(R158). -/
theorem exec_refev {s : State} {r tx m : Int}
    (hr : r = (s.a.toNat % 2 ^ 40 * 625 / 39936 : Nat))
    (htx : tx = (s.b.toNat % 2 ^ 32 * 256 * 625 / 39936 : Nat))
    (hm : m = if tx < sint s.tof then tx - sint s.tof + s.period else tx - sint s.tof) :
    exec .refev s = supd r m s := by
  rw [exec, execRefev, ticksOf_toNat, field2ts_fieldOf, diffP_eq_ite, hm, hr, htx]
  rfl

/-- Settles O14: `REFEV`'s observation is in the period, so the model update applies to it as to
`SUPD`'s, and the registers hold it exactly. -/
theorem refevFeedsModel : Obligations.RefevFeedsModel := by
  refine ⟨decode_encode .refev, fun s r tx m hp htof hr htx hm => ?_⟩
  have hrP : InPeriod s.period r := hr ▸ ticks2ns_inPeriod hp (by omega)
  have htxP : InPeriod s.period tx := htx ▸ ticks2ns_inPeriod hp (by omega)
  have hmP : InPeriod s.period m := by
    rw [hm, ← diffP_eq_ite]
    exact diffP_inPeriod htxP htof
  have hr' := sint_narrow_of_inPeriod hp hrP
  have hm' := sint_narrow_of_inPeriod hp hmP
  rw [exec_refev hr htx hm]
  refine ⟨fun hn => ⟨narrow r, narrow m, hr', hm', supd_of_zero r m hn⟩,
    fun hn hts htm => ⟨fun heq => heq ▸ supd_of_same_time m hn, fun hne => ?_⟩⟩
  exact ⟨narrow r, narrow m, (supd_of_new_time hp hrP hmP hn hts htm hne).imp fun num h =>
    h.imp fun den h => ⟨hr', hm', h⟩⟩

/-! ## The projection -/

/-- The quotient of exact integers by a positive one is the floor of the rational quotient. -/
theorem ediv_eq_floor (x : Int) {d : Int} (hd : 1 ≤ d) : x / d = ⌊(x : ℚ) / (d : ℚ)⌋ := by
  rw [Int.floor_div_cast_of_nonneg (by omega), Int.floor_intCast]

/-- The sum of the projection as R156 writes it, over the rationals. -/
theorem projectionSum_eq_floor {s : State} {t delta : Int} (hden : 1 ≤ sint s.rden)
    (hdelta : delta = if t < sint s.ts then t - sint s.ts + s.period else t - sint s.ts) :
    projectionSum t s = ⌊((sint s.rnum : ℚ) * (delta : ℚ)) / (sint s.rden : ℚ)⌋ + sint s.tm := by
  rw [projectionSum, ediv_eq_floor _ hden, diffP_eq_ite, ← hdelta, Int.cast_mul]

/-- A sum below `2P` is delivered after one correction at most (R156). -/
theorem project_of_lt {s : State} {t : Int} (h : projectionSum t s < 2 * s.period) :
    project t s = .next { s with
      res := narrow (if projectionSum t s < s.period then projectionSum t s
        else projectionSum t s - s.period)
      status := { s.status with last := .ok } } := by
  rw [project]
  split
  · rw [deliver_eq, setRes_complete_ok]
  · rw [deliver_eq, setRes_complete_ok]

/-- A sum of `2P` or more is refused (R156; 90_conflicts.md C2). -/
theorem project_of_le {s : State} {t : Int} (hp : Config.Admitted s.period)
    (h : 2 * s.period ≤ projectionSum t s) :
    project t s = .next { s with status := { s.status with last := .range, fRange := true } } := by
  have hpos := hp.1
  rw [project, if_neg (by omega), if_neg (by omega), complete_eq, complete_range]

/-- In a synchronized model that keeps R43 the sum of the projection is not negative. -/
theorem projectionSum_nonneg {s : State} {t : Int} (hs : s.RegsInv) (hn : 2 ≤ s.n.toNat)
    (ht : InPeriod s.period t) : 0 ≤ projectionSum t s := by
  obtain ⟨-, -, hsample, hratio⟩ := (State.regsInv_iff s).mp hs
  obtain ⟨hts, htm⟩ := hsample (by omega)
  obtain ⟨hnum, hden, -⟩ := hratio hn
  have hquot := Int.ediv_nonneg (mul_nonneg hnum.1 (diffP_inPeriod ht hts).1)
    (zero_le_one.trans hden)
  exact add_nonneg hquot htm.1

/-- The projection of a time in the period, in a synchronized model that keeps R43: the once-corrected
sum is in the period, so `RES` holds it exactly; or `RANGE` (R156). -/
theorem project_delivers_or_range {s : State} {t delta sum : Int} (hs : s.RegsInv)
    (hn : 2 ≤ s.n.toNat) (ht : InPeriod s.period t)
    (hdelta : delta = if t < sint s.ts then t - sint s.ts + s.period else t - sint s.ts)
    (hsum : sum = ⌊((sint s.rnum : ℚ) * (delta : ℚ)) / (sint s.rden : ℚ)⌋ + sint s.tm) :
    (sum < 2 * s.period → ∃ v : Word, sint v = (if sum < s.period then sum else sum - s.period)
      ∧ InPeriod s.period (sint v)
      ∧ project t s = .next { s with res := v, status := { s.status with last := .ok } })
    ∧ (2 * s.period ≤ sum → project t s =
      .next { s with status := { s.status with last := .range, fRange := true } }) := by
  obtain ⟨hp, -, -, hratio⟩ := (State.regsInv_iff s).mp hs
  obtain ⟨-, hden, -⟩ := hratio hn
  have hnonneg := projectionSum_nonneg hs hn ht
  obtain rfl : sum = projectionSum t s := hsum.trans (projectionSum_eq_floor hden hdelta).symm
  refine ⟨fun hlt => ?_, project_of_le hp⟩
  have hrange : InPeriod s.period
      (if projectionSum t s < s.period then projectionSum t s else projectionSum t s - s.period) := by
    split <;> constructor <;> omega
  have hv := sint_narrow_of_inPeriod hp hrange
  exact ⟨_, hv, hv.symm ▸ hrange, project_of_lt hlt⟩

/-! ## PROJ and PEEREV -/

/-- `PROJ` without a ratio drops the command, whatever its operand is (R157, R190). -/
theorem exec_proj_of_lt {s : State} (hn : s.n.toNat < 2) :
    exec .proj s = .next { s with status := { s.status with last := .dropped } } := by
  rw [exec, execProj, if_pos hn, complete_eq, complete_dropped]

/-- `PROJ` with a ratio, on an operand in the period, is the projection (R157). -/
theorem exec_proj_of_inPeriod {s : State} (hn : 2 ≤ s.n.toNat) (ha : InPeriod s.period (sint s.a)) :
    exec .proj s = project (sint s.a) s := by
  rw [exec, execProj, if_neg (by omega), if_pos ha]

/-- `PROJ` with a ratio stops with `OPERAND` on an operand outside the period (R157). -/
theorem exec_proj_of_not_inPeriod {s : State} (hn : 2 ≤ s.n.toNat)
    (ha : ¬ InPeriod s.period (sint s.a)) : exec .proj s = complete .operand s := by
  rw [exec, execProj, if_neg (by omega), if_neg ha]

/-- `PEEREV` without a ratio drops the command (R159). -/
theorem exec_peerev_of_lt {s : State} (hn : s.n.toNat < 2) :
    exec .peerev s = .next { s with status := { s.status with last := .dropped } } := by
  rw [exec, execPeerev, if_pos hn, complete_eq, complete_dropped]

/-- `PEEREV` with a ratio is the projection of the converted timestamp (R159). -/
theorem exec_peerev_of_le {s : State} (hn : 2 ≤ s.n.toNat) :
    exec .peerev s = project (ticks2ns (ticksOf s.a).toNat) s := by
  rw [exec, execPeerev, if_neg (by omega)]

/-- Settles O13: the drop, the operand check, then the projection. -/
theorem projProjectsOrDrops : Obligations.ProjProjectsOrDrops := by
  refine ⟨decode_encode .proj, fun s => ⟨exec_proj_of_lt, fun hn ha => ?_,
    fun hn hs ha delta sum hdelta hsum => ?_⟩⟩
  · rw [exec_proj_of_not_inPeriod hn ha, complete_operand_next]
  · rw [exec_proj_of_inPeriod hn ha]
    exact project_delivers_or_range hs hn ha hdelta hsum

/-- Settles O15: a converted timestamp is in the period, so `PEEREV` needs no operand check before the
projection. -/
theorem peerevProjectsOrDrops : Obligations.PeerevProjectsOrDrops := by
  refine ⟨decode_encode .peerev, fun s => ⟨exec_peerev_of_lt,
    fun hn hs t delta sum ht hdelta hsum => ?_⟩⟩
  have hticks : (ticks2ns (ticksOf s.a).toNat : Int) = t := by rw [ht, ticksOf_toNat]; rfl
  have htP : InPeriod s.period t :=
    hticks ▸ ticks2ns_inPeriod ((State.regsInv_iff s).mp hs).1 (ticksOf s.a).isLt
  rw [exec_peerev_of_le hn, hticks]
  exact project_delivers_or_range hs hn htP hdelta hsum

/-- With a ratio of at most 1 the sum of the projection stays below `2P`: the quotient is at most the
interval (R162). -/
theorem projectionSum_lt_of_le {s : State} {t : Int} (hs : s.RegsInv) (hn : 2 ≤ s.n.toNat)
    (ht : InPeriod s.period t) (hle : sint s.rnum ≤ sint s.rden) :
    projectionSum t s < 2 * s.period := by
  obtain ⟨-, -, hsample, hratio⟩ := (State.regsInv_iff s).mp hs
  obtain ⟨hts, -, htm⟩ := hsample (by omega)
  obtain ⟨-, hden, -⟩ := hratio hn
  obtain ⟨hdelta0, hdelta⟩ := diffP_inPeriod ht hts
  have hquot : sint s.rnum * diffP s.period t (sint s.ts) / sint s.rden
      ≤ diffP s.period t (sint s.ts) :=
    Int.ediv_le_of_le_mul (by omega)
      ((mul_le_mul_of_nonneg_right hle hdelta0).trans_eq (mul_comm ..))
  rw [projectionSum]
  omega

/-- Settles O19: the two ends of the projection, and the bound on its sum. -/
theorem rangeRaisedExactlyWhenSumTooLarge : Obligations.RangeRaisedExactlyWhenSumTooLarge := by
  intro s delta hs hn ha hdelta
  obtain ⟨hp, -, -, hratio⟩ := (State.regsInv_iff s).mp hs
  obtain ⟨-, hden, -⟩ := hratio hn
  have hbound := projectionSum_lt_of_le hs hn ha
  rw [exec_proj_of_inPeriod hn ha, ← projectionSum_eq_floor hden hdelta]
  rcases lt_or_ge (projectionSum (sint s.a) s) (2 * s.period) with hlt | hge
  · exact ⟨_, project_of_lt hlt, iff_of_false nofun hlt.not_ge, fun _ => nofun⟩
  · exact ⟨_, project_of_le hp hge, iff_of_true rfl hge, fun hle => absurd (hbound hle) hge.not_gt⟩

/-- Settles O20: a zero interval or a zero numerator makes the quotient 0, and `TM` is in the period. -/
theorem projectionAtSampleReturnsTm : Obligations.ProjectionAtSampleReturnsTm := by
  intro s hs hn hcase
  obtain ⟨hp, -, hsample, -⟩ := (State.regsInv_iff s).mp hs
  obtain ⟨hts, htm⟩ := hsample (by omega)
  have hproduct : InPeriod s.period (sint s.a)
      ∧ sint s.rnum * diffP s.period (sint s.a) (sint s.ts) = 0 := by
    rcases hcase with hsame | ⟨hzero, ha⟩
    · rw [hsame, diffP_self, mul_zero]; exact ⟨hts, rfl⟩
    · rw [hzero]; exact ⟨ha, zero_mul _⟩
  obtain ⟨ha, hproduct⟩ := hproduct
  have hsum : projectionSum (sint s.a) s = sint s.tm := by
    rw [projectionSum, hproduct, Int.zero_ediv, zero_add]
  have hpos := hp.1
  rw [exec_proj_of_inPeriod hn ha, project_of_lt (by omega), hsum, if_pos htm.2, narrow_sint]

/-! ## The sequences that REFEV and PEEREV stand for -/

/-- `s` with `a` and `b` moved into the operands, after commands that ended with `OK`, the last of which
delivered `v`. -/
def State.delivered (s : State) (a b v : Word) : State :=
  { s with a := a, b := b, res := v, status := { s.status with last := .ok } }

/-- A value-producing command after others of its kind shows only its own result. -/
theorem deliver_delivered (s : State) (a b v w : Word) :
    deliver w (s.delivered a b v) = .next (s.delivered a b w) := by
  rw [deliver_eq, setRes_complete_ok]
  rfl

/-- The word `RXTS` delivers holds the timestamp. -/
theorem ticksOf_setWidth_toNat (v : Word) : ((ticksOf v).setWidth 64).toNat = (ticksOf v).toNat :=
  BitVec.toNat_setWidth_of_le (by decide)

/-- `RXTS` in the sequences (R112). -/
theorem exec_rxts_delivered (s : State) :
    exec .rxts s = .next (s.delivered s.a s.b ((ticksOf s.a).setWidth 64)) :=
  congrArg Host.Outcome.next (setRes_complete_ok ..)

/-- `TS2NS` in the sequences, on a timestamp of 40 bits (R114). -/
theorem exec_ts2ns_delivered (s : State) {a : Word} {t : Nat} (b v : Word) (ha : a.toNat = t)
    (ht : t < 2 ^ 40) :
    exec .ts2ns (s.delivered a b v) = .next (s.delivered a b (narrow (ticks2ns t))) := by
  subst ha
  rw [exec_ts2ns_of_lt (s := s.delivered a b v) ht]
  exact deliver_delivered ..

/-- `FLDTS` in the sequences (R113). -/
theorem exec_fldts_delivered (s : State) (a b v : Word) :
    exec .fldts (s.delivered a b v) = .next (s.delivered a b (narrow (field2ts (fieldOf a)))) :=
  deliver_delivered ..

/-- `TCORR` in the sequences, on a time in the period (R134). -/
theorem exec_tcorr_delivered {s : State} {a : Word} {x : Int} (b v : Word) (ha : sint a = x)
    (hx : InPeriod s.period x) :
    exec .tcorr (s.delivered a b v)
      = .next (s.delivered a b (narrow (diffP s.period x (sint s.tof)))) := by
  subst ha
  rw [exec_tcorr_of_inPeriod (s := s.delivered a b v) hx]
  exact deliver_delivered ..

/-- The model update does not look at `A`, `B`, `RES` or `LAST`, and keeps the first three. -/
theorem supd_delivered (r m : Int) (s : State) (a b v : Word) :
    supd r m (s.delivered a b v)
      = andThen (supd r m s) fun t => .next { t with a := a, b := b, res := v } := by
  have hn : (s.delivered a b v).n = s.n := rfl
  have hdiff : diffP (s.delivered a b v).period r (sint (s.delivered a b v).ts)
      = diffP s.period r (sint s.ts) := rfl
  rw [supd, supd, hn, hdiff]
  split
  · rfl
  · split <;> rfl

/-- `SUPD` in the sequences, on an observation in the period (R153). -/
theorem exec_supd_delivered {s t : State} {a b : Word} {r m : Int} (v : Word) (ha : sint a = r)
    (hb : sint b = m) (hr : InPeriod s.period r) (hm : InPeriod s.period m)
    (h : supd r m s = .next t) :
    exec .supd (s.delivered a b v) = .next { t with a := a, b := b, res := v } := by
  subst ha hb
  calc exec .supd (s.delivered a b v)
      = supd (sint a) (sint b) (s.delivered a b v) := exec_supd_of_inPeriod hr hm
    _ = _ := by rw [supd_delivered, h, andThen_next]

/-- Settles O16: each command of the sequence computes one part of `REFEV`'s observation, and the model
update does not see the registers the host moved. -/
theorem refevEqualsItsSequence : Obligations.RefevEqualsItsSequence := by
  intro s hp htof
  have hticks := (ticksOf s.a).isLt
  have hfield := field2ts_lt (fieldOf s.b)
  have hr := ticks2ns_inPeriod hp hticks
  have htx := ticks2ns_inPeriod hp hfield
  have hm := diffP_inPeriod htx htof
  obtain ⟨t, ht⟩ := exec_completes .refev s
  refine ⟨_, _, _, _, _, { t with a := _, b := _, res := _ }, t, exec_rxts_delivered s,
    exec_ts2ns_delivered s _ _ (ticksOf_setWidth_toNat s.a) hticks,
    exec_fldts_delivered s s.b s.b _,
    exec_ts2ns_delivered s _ _ (toNat_narrow (by omega)) hfield,
    exec_tcorr_delivered (s := s) _ _ (sint_narrow_ticks2ns hfield) htx,
    exec_supd_delivered (s := s) _ (sint_narrow_ticks2ns hticks) (sint_narrow_of_inPeriod hp hm) hr hm ht,
    ht, rfl⟩

/-- The projection does not look at `A`, `RES` or `LAST`, and writes `RES` only where it delivers. -/
theorem project_delivered {s : State} (hp : Config.Admitted s.period) (t : Int) (a v : Word) :
    ∃ u t', project t (s.delivered a s.b v) = .next u ∧ project t s = .next t'
      ∧ u = { t' with a := u.a, res := u.res } ∧ (t'.status.last = .ok → u.res = t'.res) := by
  rcases lt_or_ge (projectionSum t s) (2 * s.period) with hlt | hge
  · exact ⟨_, _, project_of_lt (s := s.delivered a s.b v) hlt, project_of_lt hlt, rfl, fun _ => rfl⟩
  · exact ⟨_, _, project_of_le (s := s.delivered a s.b v) hp hge, project_of_le hp hge, rfl, nofun⟩

/-- `PROJ` after the conversion ends as `PEEREV` does: the converted timestamp passes its operand check
(R157, R159). -/
theorem exec_proj_delivered {s : State} {a : Word} (hp : Config.Admitted s.period) (v : Word)
    (ha : sint a = ticks2ns (ticksOf s.a).toNat) :
    ∃ u t, exec .proj (s.delivered a s.b v) = .next u ∧ exec .peerev s = .next t
      ∧ u = { t with a := u.a, res := u.res } ∧ (t.status.last = .ok → u.res = t.res) := by
  rcases Nat.lt_or_ge s.n.toNat 2 with hn | hn
  · exact ⟨_, _, exec_proj_of_lt (s := s.delivered a s.b v) hn, exec_peerev_of_lt hn, rfl, nofun⟩
  · have hin : InPeriod s.period (sint a) := ha ▸ ticks2ns_inPeriod hp (ticksOf s.a).isLt
    have hproj : exec .proj (s.delivered a s.b v) = project (sint a) (s.delivered a s.b v) :=
      exec_proj_of_inPeriod hn hin
    rw [hproj, ha, exec_peerev_of_le hn]
    exact project_delivered hp _ a v

/-- Settles O17: the conversion, then `PROJ`; `RANGE` and `DROPPED` leave the `RES` of `TS2NS`. -/
theorem peerevEqualsItsSequence : Obligations.PeerevEqualsItsSequence := by
  intro s hp
  have hticks := (ticksOf s.a).isLt
  obtain ⟨u, t, hend⟩ := exec_proj_delivered hp (narrow (ticks2ns (ticksOf s.a).toNat))
    (sint_narrow_ticks2ns hticks)
  exact ⟨_, _, u, t, exec_rxts_delivered s,
    exec_ts2ns_delivered s _ _ (ticksOf_setWidth_toNat s.a) hticks, hend⟩

end Sys2Proof.Machine
end

section
/-! The completion and host rules (spec/60_exceptions.md): what `complete` records, which command ends
with which code, when a step stops, and what a frame makes the Event Dispatch Loop do to the block. -/

namespace Sys2Proof.Machine

/-! ## Completion codes -/

/-- A word that encodes no command changes `LAST` and `F_ILLEGAL` only (R181, R182). -/
theorem complete_illegal (s : State) :
    s.complete .illegal = { s with status := { s.status with last := .illegal, fIllegal := true } } := by
  simp [State.complete, Status.record]

/-- Settles O22: each code's own equation. -/
theorem completeRecordsCode : Obligations.CompleteRecordsCode := fun s =>
  ⟨congrArg _ (complete_ok s), congrArg _ (complete_dropped s), congrArg _ (complete_illegal s),
    congrArg _ (complete_operand s), congrArg _ (complete_overflow s),
    congrArg _ (complete_divzero s), congrArg _ (complete_range s)⟩

/-- Settles O23: of the ways a command word can end, those with a code other than `OK` are a bare
`complete`. -/
theorem faultsChangeOnlyStatus : Obligations.FaultsChangeOnlyStatus := by
  intro w s s' hrun hlast
  rcases runCommand_cases w s with ⟨i, _, e⟩ | ⟨_, e⟩ <;> rw [e] at hrun
  · rcases exec_cases i s with ⟨_, _, e⟩ | ⟨_, _, _, e⟩ | ⟨_, _, _, _, _, e⟩ <;>
      (rw [e] at hrun; cases hrun)
    · rfl
    · exact absurd rfl hlast
    · exact absurd rfl hlast
  · cases hrun; rfl

/-- The codes a command can end with: R180's column "raised by", read by command. -/
def codesOf : Instr → List Code
  | .rxts | .fldts => [.ok]
  | .ts2ns | .diff | .tcorr => [.ok, .operand]
  | .addw => [.ok, .overflow]
  | .supd => [.ok, .operand, .divzero]
  | .proj => [.ok, .dropped, .operand, .range]
  | .refev => [.ok, .divzero]
  | .peerev => [.ok, .dropped, .range]

/-- The command ends by completing with one of these codes. -/
def EndsWith (cs : List Code) (o : Host.Outcome State Fault Refusal) : Prop :=
  ∃ c ∈ cs, ∃ t : State, o = .next (t.complete c)

/-- `complete` ends with its code (R181). -/
theorem endsWith_complete {cs : List Code} {c : Code} (hc : c ∈ cs) (s : State) :
    EndsWith cs (complete c s) := ⟨c, hc, s, rfl⟩

/-- A delivered value comes with `OK` (R23). -/
theorem endsWith_deliver {cs : List Code} (hok : .ok ∈ cs) (v : Word) (s : State) :
    EndsWith cs (deliver v s) := ⟨.ok, hok, s.setRes v, rfl⟩

/-- A test between two ends. -/
theorem EndsWith.ite {cs : List Code} {p : Prop} [Decidable p]
    {o o' : Host.Outcome State Fault Refusal} (ho : EndsWith cs o) (ho' : EndsWith cs o') :
    EndsWith cs (if p then o else o') := by
  split
  · exact ho
  · exact ho'

/-- The model update ends with `OK` or `DIVZERO` (R152, R154). -/
theorem endsWith_supd {cs : List Code} (hok : .ok ∈ cs) (hdivzero : .divzero ∈ cs) (r m : Int)
    (s : State) : EndsWith cs (supd r m s) :=
  .ite (endsWith_complete hok _) (.ite (endsWith_complete hdivzero _) (endsWith_complete hok _))

/-- The projection ends with `OK` or `RANGE` (R156). -/
theorem endsWith_project {cs : List Code} (hok : .ok ∈ cs) (hrange : .range ∈ cs) (t : Int)
    (s : State) : EndsWith cs (project t s) :=
  .ite (endsWith_deliver hok ..) (.ite (endsWith_deliver hok ..) (endsWith_complete hrange _))

/-- Every command ends with one of its codes (R180). -/
theorem exec_endsWith (i : Instr) (s : State) : EndsWith (codesOf i) (exec i s) := by
  have hok : Code.ok ∈ codesOf i := by cases i <;> decide
  cases i with
  | rxts => exact endsWith_deliver hok ..
  | fldts => exact endsWith_deliver hok ..
  | ts2ns => exact .ite (endsWith_complete (by decide) s) (endsWith_deliver hok ..)
  | diff => exact .ite (endsWith_deliver hok ..) (endsWith_complete (by decide) s)
  | addw => exact .ite (endsWith_deliver hok ..) (endsWith_complete (by decide) s)
  | tcorr => exact .ite (endsWith_deliver hok ..) (endsWith_complete (by decide) s)
  | supd => exact .ite (endsWith_supd hok (by decide) ..) (endsWith_complete (by decide) s)
  | proj =>
    exact .ite (endsWith_complete (by decide) s)
      (.ite (endsWith_project hok (by decide) ..) (endsWith_complete (by decide) s))
  | refev => exact endsWith_supd hok (by decide) ..
  | peerev =>
    exact .ite (endsWith_complete (by decide) s) (endsWith_project hok (by decide) ..)

/-- No command ends with `ILLEGAL` (R182). -/
theorem illegal_notMem_codesOf (i : Instr) : .illegal ∉ codesOf i := by
  cases i <;> decide

/-- R180 by code: the commands that can end with it. -/
theorem mem_codesOf_iff (i : Instr) :
    (.dropped ∈ codesOf i ↔ i = .proj ∨ i = .peerev)
    ∧ (.operand ∈ codesOf i ↔ i = .ts2ns ∨ i = .diff ∨ i = .tcorr ∨ i = .supd ∨ i = .proj)
    ∧ (.overflow ∈ codesOf i ↔ i = .addw)
    ∧ (.divzero ∈ codesOf i ↔ i = .supd ∨ i = .refev)
    ∧ (.range ∈ codesOf i ↔ i = .proj ∨ i = .peerev) := by
  cases i <;> decide

/-- Settles O24: a word that encodes a command ends with one of its codes, any other with `ILLEGAL`. -/
theorem codesComeFromTheirCommands : Obligations.CodesComeFromTheirCommands := by
  intro w s
  rcases runCommand_cases w s with ⟨i, hdec, e⟩ | ⟨hdec, e⟩
  · obtain ⟨c, hc, t, ht⟩ := exec_endsWith i s
    have hillegal : c ≠ .illegal := fun h => illegal_notMem_codesOf i (h ▸ hc)
    obtain ⟨hdropped, hoperand, hoverflow, hdivzero, hrange⟩ := mem_codesOf_iff i
    simp only [hdec, Except.ok.injEq]
    refine ⟨_, e.trans ht, iff_of_false hillegal fun h => h i rfl, ?_, ?_, ?_, ?_, ?_⟩ <;>
      (rintro rfl)
    · exact hdropped.mp hc
    · exact hoperand.mp hc
    · exact hoverflow.mp hc
    · exact hdivzero.mp hc
    · exact hrange.mp hc
  · exact ⟨_, e, iff_of_true rfl hdec, nofun, nofun, nofun, nofun, nofun⟩

/-! ## Words that encode no command -/

/-- The ten words of R92. -/
theorem encode_mem_table (i : Instr) : encode i ∈
    [0x01#64, 0x02#64, 0x03#64, 0x10#64, 0x11#64, 0x12#64, 0x20#64, 0x21#64, 0x22#64, 0x23#64] := by
  cases i <;> simp [encode]

/-- Settles O30: such a word is no command's, and the step is its write to `CMD`. -/
theorem illegalWordsChangeOnlyStatus : Obligations.IllegalWordsChangeOnlyStatus := by
  intro s w rest hrst hpend hw
  have hrun : runCommand w (s.setPending rest) = .next ((s.setPending rest).complete .illegal) := by
    rcases runCommand_cases w (s.setPending rest) with ⟨i, hdec, _⟩ | ⟨_, e⟩
    · exact absurd (eq_encode_of_decode hdec ▸ encode_mem_table i) hw
    · exact e
  have hstep := step_write hrst 0x18#8 8#4 w rest
  rw [← hpend, portWrite_cmd, hrun, andThen_next, complete_illegal] at hstep
  exact hstep

/-! ## When a step stops -/

/-- While `rst` is asserted a transaction is refused (R215). -/
theorem transact_of_inReset {s : State} (hrst : s.inReset = true) (t : Txn) :
    transact t s = .refused .transactionDuringReset :=
  if_pos hrst

/-- Settles O43: the step is the transaction, on the state without that event. -/
theorem transactionDuringResetRefused : Obligations.TransactionDuringResetRefused :=
  fun s rest t hrst => transact_of_inReset (s := s.setPending rest) hrst t

/-- A transaction completes, unless `rst` is asserted (R192, R215). -/
theorem transact_completes_or_refused (t : Txn) (s : State) :
    (∃ s', transact t s = .next s')
    ∨ s.inReset = true ∧ transact t s = .refused .transactionDuringReset := by
  rcases transact_cases t s with hrefused | ⟨_, addr, size, _, e⟩ | ⟨_, addr, size, v, _, e⟩
  · exact .inr hrefused
  · exact .inl ⟨_, e⟩
  · rcases portWrite_ok_or_err addr size v s with ⟨_, s', hw, _⟩ | ⟨_, hw⟩ <;>
      exact .inl ⟨_, e.trans hw⟩

/-- The timestamp field of the frame just read is there, or is refused; no byte of it is unwritten
(R71). -/
theorem fbRead_readFrame_cases (h : HostAgent) (off : Nat) :
    (∃ v, fbRead h.readFrame off = .next v)
    ∨ fbRead h.readFrame off = .refused .fieldOutOfBounds := by
  obtain ⟨hinside, houtside⟩ := fieldReadIsLittleEndian h off
  rcases Nat.lt_or_ge h.rxBytes.length (off + 4) with hlt | hge
  · exact .inr (houtside hlt)
  · obtain ⟨v, hv, _⟩ := hinside hge
    exact .inl ⟨v, hv⟩

/-- A frame is dispatched, unless its timestamp field is outside it. -/
theorem dispatchFrame_completes_or_refused (cfg : HostConfig) (s : State) :
    (∃ s', dispatchFrame cfg s = .next s') ∨ dispatchFrame cfg s = .refused .fieldOutOfBounds := by
  rcases dispatchFrame_cases cfg s with ⟨_, e⟩ | ⟨_, _, e⟩ | ⟨_, _, e⟩
  · exact .inl ⟨_, e⟩
  · rw [e, feedReference, State.setHost_host]
    rcases fbRead_readFrame_cases s.host cfg.txtsOff with ⟨v, hv⟩ | hv <;> rw [hv]
    · exact .inl ⟨_, rfl⟩
    · exact .inr rfl
  · exact .inl ⟨_, e⟩

/-- A turn of the loop completes, unless its transaction or its frame is refused. -/
theorem loopTurn_completes_or_refused (cfg : HostConfig) (s : State) :
    (∃ s', loopTurn cfg s = .next s')
    ∨ (s.inReset = true ∧ loopTurn cfg s = .refused .transactionDuringReset)
    ∨ loopTurn cfg s = .refused .fieldOutOfBounds := by
  unfold loopTurn
  split
  case h_1 => exact .inl ⟨_, rfl⟩
  case h_2 =>
    split
    · exact (dispatchFrame_completes_or_refused cfg s).imp_right .inr
    · split <;> exact .inl ⟨_, rfl⟩
  case h_3 t rest k _ =>
    rw [issueNext]
    rcases transact_completes_or_refused t s with ⟨s', e⟩ | ⟨hrst, e⟩ <;> rw [e]
    · cases rest <;> exact .inl ⟨_, rfl⟩
    · exact .inr (.inl ⟨hrst, rfl⟩)
  case h_4 => exact .inl ⟨_, rfl⟩

/-- An event is handled, or is refused for one of the two reasons. -/
theorem handle_completes_or_refused (e : Event) (s : State) :
    (∃ s', handle e s = .next s')
    ∨ (handle e s = .refused .transactionDuringReset ∧ s.inReset = true
      ∧ (e = .loop ∨ ∃ t, e = .txn t))
    ∨ (handle e s = .refused .fieldOutOfBounds ∧ e = .loop) := by
  cases e with
  | txn t =>
    rcases transact_completes_or_refused t s with hnext | ⟨hrst, hrefused⟩
    · exact .inl hnext
    · exact .inr (.inl ⟨hrefused, hrst, .inr ⟨t, rfl⟩⟩)
  | rst level => exact .inl ⟨_, rfl⟩
  | radio r => exact .inl ⟨_, rfl⟩
  | loop =>
    rcases loopTurn_completes_or_refused Config.host s with hnext | ⟨hrst, hrefused⟩ | hrefused
    · exact .inl hnext
    · exact .inr (.inl ⟨hrefused, hrst, .inl rfl⟩)
    · exact .inr (.inr ⟨hrefused, rfl⟩)

/-- Settles O46; the frame is read into the buffer before a field of it is, so no step needs the
invariant for it. -/
theorem stepsNeverFault : Obligations.StepsNeverFault := by
  intro s _
  rcases step_cases s with ⟨_, e⟩ | ⟨ev, rest, hpend, e⟩ <;> rw [e]
  · exact ⟨nofun, nofun⟩
  · rw [hpend, List.head?_cons]
    rcases handle_completes_or_refused ev (s.setPending rest) with
      ⟨s', h⟩ | ⟨h, hrst, hev⟩ | ⟨h, hev⟩ <;> rw [h]
    · exact ⟨nofun, nofun⟩
    · refine ⟨nofun, fun r hr => ?_⟩
      cases hr
      exact .inl ⟨rfl, hrst, hev.imp (congrArg some) fun ⟨t, ht⟩ => ⟨t, congrArg some ht⟩⟩
    · refine ⟨nofun, fun r hr => ?_⟩
      cases hr
      exact .inr ⟨rfl, congrArg some hev⟩

/-! ## The turns of the loop outside a frame -/

/-- Settles O48: the callback of each event, on the state without it. -/
theorem callbackSetsOneFlag : Obligations.CallbackSetsOneFlag := by
  intro s e rest hpend
  rw [step_of_pending hpend]
  cases e <;> rfl

/-- A waiting loop dispatches a received frame, whatever else is pending (R202, R205). -/
theorem loopTurn_of_received {cfg : HostConfig} {s : State} (hphase : s.host.phase = .wait)
    (hrec : s.host.received = true) : loopTurn cfg s = dispatchFrame cfg s := by
  simp [loopTurn, hphase, hrec]

/-- With no frame, a waiting loop goes on to step 4 on a timeout or an error (R209). -/
theorem loopTurn_of_timeout_or_error {cfg : HostConfig} {s : State} (hphase : s.host.phase = .wait)
    (hrec : s.host.received = false) (hflag : s.host.timeout = true ∨ s.host.error = true) :
    loopTurn cfg s = .next (s.setPhase .afterFrame) := by
  simp [loopTurn, hphase, hrec, hflag]

/-- Step 4 on a timeout or an error (R209). -/
theorem endIteration_of_flag {s : State} (hflag : s.host.timeout = true ∨ s.host.error = true) :
    endIteration s = s.setHost { s.host with
      driverCalls := .resetReceiveState :: s.host.driverCalls
      timeout := false
      error := false
      phase := .listen } :=
  if_pos (by simpa using hflag)

/-- Settles O49: the wait ends, then step 4. -/
theorem timeoutLeavesBlockAlone : Obligations.TimeoutLeavesBlockAlone := by
  intro cfg s hphase hrec hflag
  refine ⟨_, _, loopTurn_of_timeout_or_error hphase hrec hflag, rfl, ?_⟩
  rw [endIteration_of_flag (s := s.setPhase .afterFrame) hflag]
  rfl

/-- Settles O50: the length check comes before the frame is read. -/
theorem oversizedFrameDropped : Obligations.OversizedFrameDropped := by
  intro cfg s hphase hrec hcap
  rw [loopTurn_of_received hphase hrec, dispatchFrame, if_pos hcap]
  rfl

/-! ## The first turn of a frame -/

/-- The host with the frame in its buffer and transactions to issue. -/
def HostAgent.issuing (h : HostAgent) (t : Txn) (rest : List Txn) (k : After) : HostAgent :=
  { h.readFrame with phase := .issue t rest k }

/-- The content of the buffer with the frame in it: the frame's own byte inside the frame, what was
there before beyond it (log 19). -/
theorem bufferByte_readFrame (h : HostAgent) (a : Nat) :
    h.readFrame.bufferByte a =
      (h.rxBytes[a]?).getD ((h.buffer.read a).getD (Config.unwrittenByte a)) := by
  rw [HostAgent.bufferByte_eq, HostAgent.readFrame, Memory.read_fill]
  by_cases ha : a < h.rxBytes.length <;> simp [ha]

/-- The function that the statements call `byte` is the buffer's content. -/
theorem eq_bufferByte_readFrame {h : HostAgent} {byte : Nat → Byte}
    (hbyte : ∀ a, byte a =
      (h.rxBytes[a]?).getD ((h.buffer.read a).getD (Config.unwrittenByte a))) :
    byte = h.readFrame.bufferByte :=
  funext fun a => (hbyte a).trans (bufferByte_readFrame h a).symm

/-- Inside the frame the content is the frame's own. -/
theorem bufferByte_readFrame_of_lt {h : HostAgent} {a : Nat} (ha : a < h.rxBytes.length) :
    h.readFrame.bufferByte a = h.rxBytes[a] := by
  simp [bufferByte_readFrame, ha]

/-- `field` holds the little-endian value of the four bytes from `off` on (R70). -/
def IsField (byte : Nat → Byte) (off : Nat) (field : Word) : Prop :=
  field.toNat = (byte off).toNat + (byte (off + 1)).toNat * 2 ^ 8
    + (byte (off + 2)).toNat * 2 ^ 16 + (byte (off + 3)).toNat * 2 ^ 24

/-- A field inside the frame just read, as the host puts it in `B` (R70, R72). -/
theorem fbRead_readFrame_isField {h : HostAgent} {off : Nat} (hoff : off + 4 ≤ h.rxBytes.length) :
    ∃ v, fbRead h.readFrame off = .next v
      ∧ IsField h.readFrame.bufferByte off (v.setWidth 64) := by
  obtain ⟨v, hread, hv⟩ := (fieldReadIsLittleEndian h off).1 hoff
  refine ⟨v, hread, ?_⟩
  rw [IsField, BitVec.toNat_setWidth_of_le (by decide), hv,
    bufferByte_readFrame_of_lt (by omega), bufferByte_readFrame_of_lt (by omega),
    bufferByte_readFrame_of_lt (by omega), bufferByte_readFrame_of_lt (by omega)]

/-- The timestamp that the host writes to `A`, by its number (R73). -/
theorem rxWord_eq (h : HostAgent) : rxWord h = BitVec.ofNat 64 h.rxTs.toNat :=
  (BitVec.ofNat_toNat ..).symm

section
variable {cfg : HostConfig} {s : State} (hphase : s.host.phase = .wait)
  (hrec : s.host.received = true) (hcap : s.host.rxBytes.length ≤ cfg.cap)
include hphase hrec hcap

/-- A Reference frame goes to `feedReference`, its frame read (R206, R208). -/
theorem loopTurn_of_reference (hid : sourceId cfg s.host.readFrame = cfg.refId) :
    loopTurn cfg s = feedReference cfg (s.setHost s.host.readFrame) := by
  rw [loopTurn_of_received hphase hrec, dispatchFrame, if_neg (Nat.not_lt.mpr hcap), if_pos hid]

/-- A Reference frame that holds its field makes the loop issue `ref rx, field` (R206). -/
theorem loopTurn_of_reference_field (hid : sourceId cfg s.host.readFrame = cfg.refId)
    (hoff : cfg.txtsOff + 4 ≤ s.host.rxBytes.length) :
    ∃ field, IsField s.host.readFrame.bufferByte cfg.txtsOff field
      ∧ loopTurn cfg s = .next (s.setHost (s.host.issuing (wrTxn .a (rxWord s.host))
          [wrTxn .b field, cmdTxn .refev] .frameDone)) := by
  obtain ⟨v, hread, hv⟩ := fbRead_readFrame_isField hoff
  refine ⟨v.setWidth 64, hv, ?_⟩
  rw [loopTurn_of_reference hphase hrec hcap hid, feedReference, State.setHost_host, hread]
  rfl

/-- A Reference frame too short for its field is refused (R71). -/
theorem loopTurn_of_reference_short (hid : sourceId cfg s.host.readFrame = cfg.refId)
    (hoff : s.host.rxBytes.length < cfg.txtsOff + 4) :
    loopTurn cfg s = .refused .fieldOutOfBounds := by
  rw [loopTurn_of_reference hphase hrec hcap hid, feedReference, State.setHost_host,
    (fieldReadIsLittleEndian s.host cfg.txtsOff).2 hoff, andThen_refused]

/-- Any other frame makes the loop issue `peer rx` and read `STATUS` (R206, R242). -/
theorem loopTurn_of_peer (hid : sourceId cfg s.host.readFrame ≠ cfg.refId) :
    loopTurn cfg s = .next (s.setHost (s.host.issuing (wrTxn .a (rxWord s.host))
      [cmdTxn .peerev, rdTxn .status] (.testLast (sourceId cfg s.host.readFrame)))) := by
  rw [loopTurn_of_received hphase hrec, dispatchFrame, if_neg (Nat.not_lt.mpr hcap), if_neg hid]
  rfl

end

/-- Settles O53: the three first turns. -/
theorem everyFrameIsReferenceOrPeer : Obligations.EveryFrameIsReferenceOrPeer := by
  intro cfg s byte hbyte hphase hrec hcap
  obtain rfl := eq_bufferByte_readFrame hbyte
  rw [← rxWord_eq]
  exact ⟨fun hid => ⟨loopTurn_of_reference_field hphase hrec hcap hid,
    loopTurn_of_reference_short hphase hrec hcap hid⟩, loopTurn_of_peer hphase hrec hcap⟩

/-! ## The block beside its host -/

/-- The block of `s`, with another latest response and another host: all that the loop's transactions
tell apart. -/
def State.beside (s : State) (rsp : Option Response) (h : HostAgent) : State :=
  { s with rsp := rsp, host := h }

/-- A test between two ends, on both sides of the passage from one host to another. -/
theorem ite_eq_andThen_ite {p : Prop} [Decidable p] {o o' o₁ o₁' : Host.Outcome State Fault Refusal}
    {f : State → Host.Outcome State Fault Refusal} (ho : o = andThen o₁ f) (ho' : o' = andThen o₁' f) :
    (if p then o else o') = andThen (if p then o₁ else o₁') f := by
  split
  · exact ho
  · exact ho'

section
variable (s : State) (rsp : Option Response) (h : HostAgent)

/-- The model update neither reads nor writes the response or the host (R60, R152). -/
theorem supd_beside (r m : Int) :
    supd r m (s.beside rsp h) = andThen (supd r m s) fun t => .next (t.beside rsp h) :=
  ite_eq_andThen_ite rfl (ite_eq_andThen_ite rfl rfl)

/-- Nor does the projection (R60, R156). -/
theorem project_beside (t : Int) :
    project t (s.beside rsp h) = andThen (project t s) fun t' => .next (t'.beside rsp h) :=
  ite_eq_andThen_ite rfl (ite_eq_andThen_ite rfl rfl)

/-- No command reads or writes the response or the host (R60). -/
theorem exec_beside (i : Instr) :
    exec i (s.beside rsp h) = andThen (exec i s) fun t => .next (t.beside rsp h) := by
  cases i with
  | rxts => rfl
  | fldts => rfl
  | ts2ns => exact ite_eq_andThen_ite rfl rfl
  | diff => exact ite_eq_andThen_ite rfl rfl
  | addw => exact ite_eq_andThen_ite rfl rfl
  | tcorr => exact ite_eq_andThen_ite rfl rfl
  | supd => exact ite_eq_andThen_ite (supd_beside ..) rfl
  | proj => exact ite_eq_andThen_ite rfl (ite_eq_andThen_ite (project_beside ..) rfl)
  | refev => exact supd_beside ..
  | peerev => exact ite_eq_andThen_ite rfl (project_beside ..)

end

/-- The block in `s` answers `t` with `r` and is then as in `s'`, whatever the latest response and the
host are. -/
def Answers (t : Txn) (s : State) (r : Response) (s' : State) : Prop :=
  ∀ rsp h, transact t (s.beside rsp h) = .next (s'.beside (some r) h)

section
variable {s : State} (hrst : s.inReset = false)
include hrst

/-- A write of `A` is accepted (R62). -/
theorem answers_wr_a (v : Word) : Answers (wrTxn .a v) s .ok (s.setA v) :=
  fun rsp h => (transact_write (s := s.beside rsp h) hrst ..).trans (portWrite_a ..)

/-- A write of `B` is accepted (R62). -/
theorem answers_wr_b (v : Word) : Answers (wrTxn .b v) s .ok (s.setB v) :=
  fun rsp h => (transact_write (s := s.beside rsp h) hrst ..).trans (portWrite_b ..)

/-- The write of a command's word runs the command. -/
theorem answers_cmd {i : Instr} {t : State} (hexec : exec i s = .next t) :
    Answers (cmdTxn i) s .ok t := by
  intro rsp h
  have hrun : runCommand (encode i) (s.beside rsp h) = .next (t.beside rsp h) := by
    rw [runCommand_of_decode (decode_encode i), exec_beside, hexec, andThen_next]
  calc transact (cmdTxn i) (s.beside rsp h)
      = portWrite 0x18#8 8#4 (encode i) (s.beside rsp h) :=
        transact_write (s := s.beside rsp h) hrst ..
    _ = .next (t.beside (some .ok) h) := by rw [portWrite_cmd, hrun]; rfl

/-- The read of a register whose value is specified. -/
theorem answers_rd {r : Reg} {v : Word} (hu : unspecified s r = false) (hv : regValue s r = some v) :
    Answers (rdTxn r) s (.data v) s := by
  intro rsp h
  have hread := portRead_offset (r := r) (s := s.beside rsp h) (v := v)
    (by cases r <;> exact hv) (by cases r <;> exact hu)
  exact (transact_read (s := s.beside rsp h) hrst ..).trans (congrArg _ hread)

end

/-! ## The turns of a frame -/

/-- A turn that issues a transaction which is not the last one. -/
theorem loopTurn_issue_cons (cfg : HostConfig) {s s' : State} {t : Txn} {r : Response}
    (h : Answers t s r s') (rsp : Option Response) (host : HostAgent) (t' : Txn) (rest : List Txn)
    (k : After) :
    loopTurn cfg (s.beside rsp (host.issuing t (t' :: rest) k))
      = .next (s'.beside (some r) (host.issuing t' rest k)) := by
  change issueNext cfg t (t' :: rest) k _ = _
  rw [issueNext, h, andThen_next]
  rfl

/-- A turn that issues the last transaction in hand: the loop goes on with its response. -/
theorem loopTurn_issue_last (cfg : HostConfig) {s s' : State} {t : Txn} {r : Response}
    (h : Answers t s r s') (rsp : Option Response) (host : HostAgent) (k : After) :
    loopTurn cfg (s.beside rsp (host.issuing t [] k))
      = .next (continueWith cfg k (s'.beside (some r) host).responseData
          (s'.beside (some r) (host.issuing t [] k))) := by
  change issueNext cfg t [] k _ = _
  rw [issueNext, h, andThen_next]
  rfl

/-- The host when a frame is done: the frame in the buffer, and the received flag cleared (R205). -/
def HostAgent.frameDone (h : HostAgent) : HostAgent :=
  { h.readFrame with received := false, phase := .afterFrame }

/-- Settles O54: the first turn, then the three transactions of `ref rx, field`. -/
theorem referenceFrameFeedsModel : Obligations.ReferenceFrameFeedsModel := by
  intro cfg s byte hbyte hrst hphase hrec hcap hoff hid
  obtain rfl := eq_bufferByte_readFrame hbyte
  rw [← rxWord_eq]
  obtain ⟨field, hfield, hfirst⟩ := loopTurn_of_reference_field hphase hrec hcap hid hoff
  have hrstA : (s.setA (rxWord s.host)).inReset = false := hrst
  have hrstB : ((s.setA (rxWord s.host)).setB field).inReset = false := hrst
  obtain ⟨t, ht⟩ := exec_completes .refev ((s.setA (rxWord s.host)).setB field)
  exact ⟨field, _, _, _, t.beside (some .ok) s.host.frameDone, t, hfield, hfirst,
    loopTurn_issue_cons cfg (answers_wr_a hrst _) s.rsp ..,
    loopTurn_issue_cons cfg (answers_wr_b hrstA _) ..,
    loopTurn_issue_last cfg (answers_cmd hrstB ht) .., ht, rfl⟩

/-- The `LAST` field of the word a host reads is 0 exactly for `OK` (R180, R242). -/
theorem statusWord_last_eq_zero_iff (st : Status) (n : BitVec 32) :
    (statusWord st n).extractLsb' 0 4 = 0#4 ↔ st.last = .ok := by
  rw [← BitVec.toNat_inj, statusWord_last]
  cases st.last <;> decide

/-- No command touches the reset input. -/
theorem exec_inReset {i : Instr} {s t : State} (h : exec i s = .next t) : t.inReset = s.inReset := by
  obtain ⟨_, _, _, _, _, hrst, _⟩ := commandsLeaveOperandsAndBuffer i s t h
  exact hrst

section
variable {cfg : HostConfig} {s t : State} (hrst : s.inReset = false)
  (hphase : s.host.phase = .wait) (hrec : s.host.received = true)
  (hcap : s.host.rxBytes.length ≤ cfg.cap) (hid : sourceId cfg s.host.readFrame ≠ cfg.refId)
  (hexec : exec .peerev (s.setA (rxWord s.host)) = .next t)
include hrst hphase hrec hcap hid hexec

/-- The first four turns of a Peer frame: `peer rx`, then the read of `STATUS` and the test of `LAST`
(R206, R242). -/
theorem peer_turns : ∃ s1 s2 s3, loopTurn cfg s = .next s1 ∧ loopTurn cfg s1 = .next s2
    ∧ loopTurn cfg s2 = .next s3
    ∧ loopTurn cfg s3 = .next (
      if t.status.last = .ok then
        t.beside (some (.data (statusWord t.status t.n)))
          (s.host.issuing (rdTxn .res) [] (.takeRes (sourceId cfg s.host.readFrame)))
      else t.beside (some (.data (statusWord t.status t.n))) s.host.frameDone) := by
  have hrstA : (s.setA (rxWord s.host)).inReset = false := hrst
  have hrst' : t.inReset = false := (exec_inReset hexec).trans hrst
  refine ⟨_, _, _, loopTurn_of_peer hphase hrec hcap hid,
    loopTurn_issue_cons cfg (answers_wr_a hrst _) s.rsp ..,
    loopTurn_issue_cons cfg (answers_cmd hrstA hexec) ..,
    (loopTurn_issue_last cfg (answers_rd hrst' (r := .status) rfl rfl) ..).trans ?_⟩
  simp only [← statusWord_last_eq_zero_iff t.status t.n]
  rfl

end

/-- Settles O56: the test of `LAST` ends the frame. -/
theorem droppedPeerFrameIsNotReported : Obligations.DroppedPeerFrameIsNotReported := by
  intro cfg s t byte hbyte hrst hphase hrec hcap hid hexec hlast
  obtain rfl := eq_bufferByte_readFrame hbyte
  rw [← rxWord_eq] at hexec
  obtain ⟨s1, s2, s3, h1, h2, h3, h4⟩ := peer_turns hrst hphase hrec hcap hid hexec
  rw [if_neg hlast] at h4
  exact ⟨s1, s2, s3, _, h1, h2, h3, h4, rfl⟩

/-- The turn that reads `RES` keeps it for the report, and goes on to read `N`. -/
theorem loopTurn_takeRes (cfg : HostConfig) {s : State} (hrst : s.inReset = false)
    (rsp : Option Response) (host : HostAgent) (id : Byte × Byte) :
    loopTurn cfg (s.beside rsp (host.issuing (rdTxn .res) [] (.takeRes id)))
      = .next (s.beside (some (.data s.res)) (host.issuing (rdTxn .n) [] (.takeN id s.res))) :=
  loopTurn_issue_last cfg (answers_rd hrst (r := .res) rfl rfl) ..

/-- Settles O55: the test of `LAST` goes on to the reads of `RES` and `N`, whose values are the
report's. -/
theorem peerFrameIsReported : Obligations.PeerFrameIsReported := by
  intro cfg s t byte hbyte hrst hphase hrec hcap hid hexec hlast
  obtain rfl := eq_bufferByte_readFrame hbyte
  rw [← rxWord_eq] at hexec
  have hrst' : t.inReset = false := (exec_inReset hexec).trans hrst
  obtain ⟨s1, s2, s3, h1, h2, h3, h4⟩ := peer_turns hrst hphase hrec hcap hid hexec
  rw [if_pos hlast] at h4
  have hn : uint (t.n.setWidth 64) = t.n.toNat := BitVec.toNat_setWidth_of_le (by decide)
  refine ⟨s1, s2, s3, _, _, _, h1, h2, h3, h4,
    loopTurn_takeRes cfg hrst' ..,
    loopTurn_issue_last cfg (answers_rd hrst' (r := .n) rfl rfl) .., ?_⟩
  rw [BitVec.ofNat_toNat, ← hn]
  rfl

end Sys2Proof.Machine
end

section
/-! The reset and hazard rules (spec/70_reset_and_hazards.md): every transaction completes, what `rst`
puts back, and that nothing depends on a register whose value is unspecified. -/

namespace Sys2Proof.Machine

/-! ## Transactions complete -/

/-- No command touches the events to come. -/
theorem exec_pending {i : Instr} {s s' : State} (h : exec i s = .next s') :
    s'.pending = s.pending := by
  obtain ⟨_, _, _, _, _, _, _, hpending, _⟩ := commandsLeaveOperandsAndBuffer i s s' h
  exact hpending

/-- No command word touches the events to come, whether it encodes a command or not. -/
theorem runCommand_pending {w : Word} {s s' : State} (h : runCommand w s = .next s') :
    s'.pending = s.pending := by
  rcases runCommand_cases w s with ⟨i, _, e⟩ | ⟨_, e⟩ <;> rw [e] at h
  · exact exec_pending h
  · cases h; rfl

/-- A host read has a response (R61). -/
theorem portRead_rsp_isSome (addr : BitVec 8) (size : BitVec 4) (s : State) :
    (portRead addr size s).rsp.isSome = true := by
  rcases portRead_cases addr size s with ⟨_, e⟩ | ⟨_, _, _, e⟩ | ⟨_, _, _, _, _, e⟩ <;> rw [e] <;> rfl

/-- A host read leaves the events to come. -/
theorem portRead_pending (addr : BitVec 8) (size : BitVec 4) (s : State) :
    (portRead addr size s).pending = s.pending := by
  rw [portRead_frame]

/-- A host write completes, with a response (R62, R192). -/
theorem portWrite_completes (addr : BitVec 8) (size : BitVec 4) (v : Word) (s : State) :
    ∃ s', portWrite addr size v s = .next s' ∧ s'.rsp.isSome = true := by
  rcases portWrite_ok_or_err addr size v s with ⟨_, s', e, hrsp⟩ | ⟨_, e⟩
  · exact ⟨s', e, by rw [hrsp]; rfl⟩
  · exact ⟨_, e, rfl⟩

/-- A host write leaves the events to come. -/
theorem portWrite_pending {addr : BitVec 8} {size : BitVec 4} {v : Word} {s s' : State}
    (h : portWrite addr size v s = .next s') : s'.pending = s.pending := by
  rcases portWrite_cases addr size v s with
    ⟨_, e⟩ | ⟨_, e⟩ | ⟨_, _, e⟩ | ⟨_, e⟩ | ⟨_, _, _, _, e⟩ <;> rw [e] at h
  case inr.inr.inr.inl =>
    obtain ⟨s₁, hrun, hrsp⟩ := andThen_eq_next.mp h
    cases hrsp
    exact (State.respond_pending ..).trans (runCommand_pending hrun)
  all_goals cases h; rfl

/-- Settles O38: outside reset the step is a read or a write of the port, and both are answered. -/
theorem everyTransactionCompletes : Obligations.EveryTransactionCompletes := by
  intro s rest t hrst
  cases t with
  | read addr size =>
    exact ⟨_, step_read hrst addr size rest, portRead_rsp_isSome .., portRead_pending ..⟩
  | write addr size v =>
    obtain ⟨s', hwrite, hrsp⟩ := portWrite_completes addr size v (s.setPending rest)
    exact ⟨s', (step_write hrst addr size v rest).trans hwrite, hrsp, portWrite_pending hwrite⟩

/-! ## Reset -/

/-- A step whose next event is a level of `rst` (R230). -/
theorem step_rst {s : State} {level : Bool} {rest : List Event}
    (h : s.pending = .rst level :: rest) :
    step s = .next (resetInput level (s.setPending rest)) :=
  step_of_pending h

/-- Settles O40: `rst` is asserted by the first step, so the second one releases it. -/
theorem resetRestoresRegisters : Obligations.ResetRestoresRegisters := by
  intro s rest hpend
  have hassert : step s = .next (s.setPending (.rst false :: rest)).assertReset := step_rst hpend
  have hrelease : step (s.setPending (.rst false :: rest)).assertReset
      = .next ((s.setPending (.rst false :: rest)).assertReset.setPending rest).releaseReset :=
    step_rst (level := false) (rest := rest) rfl
  exact ⟨_, _, hassert, hrelease, rfl, rfl, rfl, rfl, rfl, rfl, rfl, rfl, rfl, rfl, rfl⟩

/-! ## Blotting out the unspecified registers

Two states differ at most in unspecified registers when `State.specified` makes them one. So it is
enough to compare each operation on `s` with the same operation on `s.specified`, which has the fields
of `s` but for the four registers; two related states are then compared through the one they share. -/

/-- The host is none of the blotted registers. -/
@[simp] theorem State.specified_host (s : State) : s.specified.host = s.host := rfl

/-- Nor are the events to come. -/
@[simp] theorem State.specified_pending (s : State) : s.specified.pending = s.pending := rfl

/-- With one observation stored the sample is specified (R34). -/
theorem State.specified_ts {s : State} (hn : ¬ s.n.toNat < 1) : s.specified.ts = s.ts := if_neg hn

/-- With one observation stored the sample is specified (R35). -/
theorem State.specified_tm {s : State} (hn : ¬ s.n.toNat < 1) : s.specified.tm = s.tm := if_neg hn

/-- With two observations stored every register is specified (R34 to R37). -/
theorem State.specified_eq_self {s : State} (hn : ¬ s.n.toNat < 2) : s.specified = s := by
  have hn' : ¬ s.n.toNat < 1 := by omega
  simp only [State.specified, if_neg hn, if_neg hn']

/-- A second blotting finds nothing to blot. -/
theorem State.specified_specified (s : State) : s.specified.specified = s.specified := by
  by_cases h1 : s.n.toNat < 1 <;> by_cases h2 : s.n.toNat < 2 <;> simp [State.specified, h1, h2]

/-- The ratio stays unspecified with the first observation, whatever stood there (R36, R37, R152). -/
theorem sameSpecified_setSample_one (u v : Word) (s : State) :
    SameSpecified (s.specified.setSample u v 1#32) (s.setSample u v 1#32) := rfl

/-! ## Steps that end alike -/

/-- To end alike is to end in the same way, once the unspecified registers are blotted out. -/
theorem sameOutcome_iff {o p : Host.Outcome State Fault Refusal} :
    SameOutcome o p ↔
      andThen o (fun s => .next s.specified) = andThen p fun s => .next s.specified := by
  cases o <;> cases p <;> simp [SameOutcome]

theorem SameOutcome.refl (o : Host.Outcome State Fault Refusal) : SameOutcome o o :=
  sameOutcome_iff.mpr rfl

theorem SameOutcome.symm {o p : Host.Outcome State Fault Refusal} (h : SameOutcome o p) :
    SameOutcome p o :=
  sameOutcome_iff.mpr (sameOutcome_iff.mp h).symm

theorem SameOutcome.trans {o p q : Host.Outcome State Fault Refusal} (h : SameOutcome o p)
    (h' : SameOutcome p q) : SameOutcome o q :=
  sameOutcome_iff.mpr ((sameOutcome_iff.mp h).trans (sameOutcome_iff.mp h'))

/-- Two next states, one of them the other with its unspecified registers blotted out. -/
theorem SameOutcome.next {s t : State} (h : s = t.specified) : SameOutcome (.next s) (.next t) :=
  (congrArg State.specified h).trans t.specified_specified

/-- A test that both sides make. -/
theorem SameOutcome.ite {c : Prop} [Decidable c] {o o' p p' : Host.Outcome State Fault Refusal}
    (h : c → SameOutcome o p) (h' : ¬ c → SameOutcome o' p') :
    SameOutcome (if c then o else o') (if c then p else p') := by
  split
  case isTrue hc => exact h hc
  case isFalse hc => exact h' hc

/-- A test that both sides make on their way to a next state. -/
theorem SameOutcome.next_ite {c : Prop} [Decidable c] {s s' t t' : State}
    (h : SameOutcome (.next s) (.next t)) (h' : SameOutcome (.next s') (.next t')) :
    SameOutcome (.next (if c then s else s')) (.next (if c then t else t')) := by
  split
  · exact h
  · exact h'

/-- Two continuations of one computation. -/
theorem SameOutcome.andThen_left {α : Type} (x : Host.Outcome α Fault Refusal)
    {f g : α → Host.Outcome State Fault Refusal} (h : ∀ a, SameOutcome (f a) (g a)) :
    SameOutcome (andThen x f) (andThen x g) := by
  cases x with
  | next a => exact h a
  | fault r => exact .refl _
  | refused r => exact .refl _

/-- `f` ends alike whatever stands in the unspecified registers. -/
def Blind (f : State → Host.Outcome State Fault Refusal) : Prop :=
  ∀ s, SameOutcome (f s.specified) (f s)

/-- A blind operation ends alike from two states that differ at most in unspecified registers. -/
theorem Blind.sameOutcome {f : State → Host.Outcome State Fault Refusal} (hf : Blind f) {s t : State}
    (h : SameSpecified s t) : SameOutcome (f s) (f t) :=
  have hshared : f s.specified = f t.specified := congrArg f h
  (hf s).symm.trans (hshared ▸ hf t)

/-- A blind operation after two that end alike. -/
theorem SameOutcome.andThen {o p : Host.Outcome State Fault Refusal} (h : SameOutcome o p)
    {f : State → Host.Outcome State Fault Refusal} (hf : Blind f) :
    SameOutcome (andThen o f) (andThen p f) := by
  cases o <;> cases p
  case next.next s t => exact hf.sameOutcome h
  case fault.fault => exact h
  case refused.refused => exact h
  all_goals exact False.elim h

/-! ## Commands read only specified registers -/

/-- `complete` looks at no register but `STATUS` (R181). -/
theorem blind_complete (c : Code) : Blind (complete c) := fun _ => .next rfl

/-- Nor does the end of a value-producing command (R23). -/
theorem blind_deliver (v : Word) : Blind (deliver v) := fun _ => .next rfl

/-- The model update reads the stored sample only once there is one. The ratio it does not read: the
first observation leaves it unspecified, and every later one writes it (R152). -/
theorem blind_supd (r m : Int) : Blind (supd r m) := by
  intro s
  refine .ite (fun _ => (blind_complete .ok).sameOutcome (sameSpecified_setSample_one ..)) fun hn => ?_
  have hstored : ¬ s.n.toNat < 1 := fun h => hn (Nat.lt_one_iff.mp h)
  rw [State.specified_ts hstored, State.specified_tm hstored]
  exact .ite (fun _ => blind_complete .divzero s) fun _ => .refl _

/-- A command reads the model only where `N` says that it is specified: the projection is past its
test of `N` only when every register is (R93, R157, R159). -/
theorem blind_exec (i : Instr) : Blind (exec i) := by
  intro s
  by_cases hn : s.n.toNat < 2
  case neg =>
    rw [State.specified_eq_self hn]
    exact .refl _
  cases i with
  | rxts => exact blind_deliver _ s
  | fldts => exact blind_deliver _ s
  | ts2ns => exact .ite (fun _ => blind_complete _ s) fun _ => blind_deliver _ s
  | diff => exact .ite (fun _ => blind_deliver _ s) fun _ => blind_complete _ s
  | addw => exact .ite (fun _ => blind_deliver _ s) fun _ => blind_complete _ s
  | tcorr => exact .ite (fun _ => blind_deliver _ s) fun _ => blind_complete _ s
  | supd => exact .ite (fun _ => blind_supd _ _ s) fun _ => blind_complete _ s
  | proj => exact .ite (fun _ => blind_complete _ s) fun hsynced => absurd hn hsynced
  | refev => exact blind_supd _ _ s
  | peerev => exact .ite (fun _ => blind_complete _ s) fun hsynced => absurd hn hsynced

/-- A command word does what its command does, or completes with `ILLEGAL` (R91, R94). -/
theorem blind_runCommand (w : Word) : Blind (runCommand w) := by
  intro s
  unfold runCommand
  cases decode w with
  | ok i => exact blind_exec i s
  | error _ => exact blind_complete .illegal s

/-! ## The port answers with specified values -/

/-- Which registers are unspecified is read off `N`. -/
@[simp] theorem unspecified_specified (s : State) (r : Reg) :
    unspecified s.specified r = unspecified s r := by
  cases r <;> rfl

/-- A register whose value is specified keeps it. -/
theorem regValue_specified {s : State} {r : Reg} (hu : unspecified s r = false) :
    regValue s.specified r = regValue s r := by
  cases r
  case ts | tm | rnum | rden => exact congrArg some (if_neg (of_decide_eq_false hu))
  all_goals rfl

/-- A host read of an unspecified register delivers the next free value, not what stands in the
register (R232). -/
theorem blind_portRead (addr : BitVec 8) (size : BitVec 4) :
    Blind fun s => .next (portRead addr size s) := by
  intro s
  unfold portRead
  cases portReg addr size with
  | none => exact .next rfl
  | some r =>
    simp only [unspecified_specified]
    cases hu : unspecified s r with
    | true => exact .next rfl
    | false =>
      rw [regValue_specified hu]
      cases regValue s r with
      | none => exact .next rfl
      | some v => exact .next rfl

/-- A host write stores into a register that is always specified, or runs a command word (R62). -/
theorem blind_portWrite (addr : BitVec 8) (size : BitVec 4) (v : Word) :
    Blind (portWrite addr size v) := by
  intro s
  unfold portWrite
  split
  case h_1 => exact .next rfl
  case h_2 => exact .next rfl
  case h_3 => exact .next_ite (.next rfl) (.next rfl)
  case h_4 => exact (blind_runCommand v s).andThen fun _ => .next rfl
  case h_5 => exact .next rfl

/-- No transaction tells what stands in an unspecified register. -/
theorem blind_transact (t : Txn) : Blind (transact t) := by
  intro s
  refine .ite (fun _ => .refl _) fun _ => ?_
  cases t with
  | read addr size => exact blind_portRead addr size s
  | write addr size v => exact blind_portWrite addr size v s

/-! ## The host sees only responses -/

/-- What the loop does once its transactions are answered turns on their data alone (R206, R242). -/
theorem blind_continueWith (cfg : HostConfig) (k : After) (v : Option Word) :
    Blind fun s => .next (continueWith cfg k v s) := by
  intro s
  unfold continueWith
  split
  case h_1 => exact .next_ite (.next rfl) (.next rfl)
  all_goals exact .next rfl

/-- A turn that issues a transaction goes on with its response. -/
theorem blind_issueNext (cfg : HostConfig) (t : Txn) (rest : List Txn) (k : After) :
    Blind (issueNext cfg t rest k) := by
  intro s
  refine (blind_transact t s).andThen fun s' => ?_
  cases rest with
  | nil => exact blind_continueWith cfg k s'.responseData s'
  | cons t' ts => exact .next rfl

/-- A frame is classified and fed by the host's own fields (R205 to R208). -/
theorem blind_dispatchFrame (cfg : HostConfig) : Blind (dispatchFrame cfg) := by
  intro s
  have hreference : SameOutcome (feedReference cfg (s.specified.setHost s.host.readFrame))
      (feedReference cfg (s.setHost s.host.readFrame)) := .andThen_left _ fun _ => .next rfl
  exact .ite (fun _ => .next rfl) fun _ => .ite (fun _ => hreference) fun _ => .next rfl

/-- A turn of the loop turns on the host's own fields and on the responses it gets (R204 to R210). -/
theorem blind_loopTurn (cfg : HostConfig) : Blind (loopTurn cfg) := by
  intro s
  simp only [loopTurn, State.specified_host]
  cases s.host.phase with
  | listen => exact .next rfl
  | wait =>
    exact .ite (fun _ => blind_dispatchFrame cfg s) fun _ =>
      .ite (fun _ => .next rfl) fun _ => .next rfl
  | issue t rest k => exact blind_issueNext cfg t rest k s
  | afterFrame => exact .next_ite (.next rfl) (.next rfl)

/-! ## Steps -/

/-- The release of `rst` overwrites every register of the block (R230). -/
theorem releaseReset_specified (s : State) : s.specified.releaseReset = s.releaseReset := rfl

/-- No level of `rst` tells what stands in an unspecified register. -/
theorem blind_resetInput (level : Bool) : Blind fun s => .next (resetInput level s) := by
  intro s
  refine .next_ite (.next rfl) (.next_ite ?_ (.next rfl))
  rw [releaseReset_specified]
  exact .refl _

/-- No event tells what stands in an unspecified register. -/
theorem blind_handle (e : Event) : Blind (handle e) := by
  intro s
  cases e with
  | txn t => exact blind_transact t s
  | rst level => exact blind_resetInput level s
  | radio r => exact .next rfl
  | loop => exact blind_loopTurn Config.host s

/-- No step tells what stands in an unspecified register. -/
theorem blind_step : Blind step := by
  intro s
  simp only [step, State.specified_pending]
  cases s.pending with
  | nil => exact .next rfl
  | cons e rest => exact blind_handle e (s.setPending rest)

/-- Settles O47: a step is blind, so two steps end alike through the state that both starts share
once blotted. -/
theorem unspecifiedRegistersNeverInfluence : Obligations.UnspecifiedRegistersNeverInfluence :=
  fun _ _ => blind_step.sameOutcome

end Sys2Proof.Machine
end
